-- ==== Sys2Proof/Word.lean ====
section
/-! DEFINITION. The word of the block: the 8-bit byte (spec/00_scope.md R9 `BYTE_W`, R11). Every wire field, the input
port, every working register and every buffer entry is one byte. -/

namespace Sys2Proof

/-- An unsigned 8-bit value, 0x00 to 0xFF (R11). -/
abbrev Byte := BitVec 8

end Sys2Proof
end

