-- ==== Sys2Proof/Config.lean ====
section
/-! DEFINITION. The fixed parameters of the block (spec/00_scope.md R9). The literals are taken as normative, as R6 says;
nobody audited them against the firmware (log 15, UNVERIFIED). `N_INSTANCES` is open and is the argument of
`Machine.System`; `RD_LATENCY` is 0, so a read is a step of its own with no delay. -/

namespace Sys2Proof.Config

/-- `START_MARKER` (R9). -/
def startMarker : Byte := 0xAA#8

/-- `LEN_MIN` (R9): a length byte below it, that is 0x00, is rejected. -/
def lenMin : Nat := 1

/-- `LEN_MAX` (R9): the largest 8-bit value. -/
def lenMax : Nat := 255

/-- `PAYLOAD_MAX` (R9; spec/90_conflicts.md C1): `LEN_MAX - 1`. -/
def payloadMax : Nat := 254

/-- `BUF_DEPTH` (R9): entries of the payload buffer, indexed by one byte. -/
def bufDepth : Nat := 256

end Sys2Proof.Config
end

