-- ==== Sys2Proof/Syntax.lean ====
section
/-! DEFINITION. The syntax of the block: the phases, the operation words of its three formats, the guard operands, and
`Instr`, one constructor for each row of spec/opcode_table.json. No meaning stands here. -/

namespace Sys2Proof

/-- The five parse phases (spec/10_state.md R22), in the order of the source. -/
inductive Phase
  | waitStart
  | readLength
  | readCommand
  | readPayload
  | readChecksum
  deriving DecidableEq, Repr

/-- An instruction: a row of the opcode table with its operands. `b` is the consumed byte. -/
inductive Instr
  /-- WS.DISCARD (R82). -/
  | wsDiscard (b : Byte)
  /-- WS.START (R83); its byte is the start marker. -/
  | wsStart
  /-- RL.ZERO (R84); its byte is 0x00. -/
  | rlZero
  /-- RL.LEN (R85). -/
  | rlLen (b : Byte)
  /-- RC.LAST (R86). -/
  | rcLast (b : Byte)
  /-- RC.MORE (R87). -/
  | rcMore (b : Byte)
  /-- RP.MORE (R88). -/
  | rpMore (b : Byte)
  /-- RP.LAST (R89). -/
  | rpLast (b : Byte)
  /-- RK.MATCH (R90). -/
  | rkMatch (b : Byte)
  /-- RK.MISMATCH (R91). -/
  | rkMismatch (b : Byte)
  /-- RESET (R150); the two other bits of the port vector are carried and ignored (R66; log 11). -/
  | reset (xferIn xferOut : Bool)
  /-- ACCEPT (R116). -/
  | accept
  /-- IDLE (R118). -/
  | idle
  /-- PAYLOAD_READ (R43); `a` is `rd_addr`. -/
  | payloadRead (a : Byte)
  deriving DecidableEq, Repr

/-- An operation word with the port that carries it (spec/30_encoding.md R65, R66): the three formats of the opcode
table are selected by different signals, so the format is part of the word. -/
inductive OpWord
  /-- Format B: `W = {phase[2:0], byte[7:0]}`. -/
  | byteOp (W : BitVec 11)
  /-- Format P: `P = {rst, xfer_in, xfer_out}`. -/
  | port (P : BitVec 3)
  /-- Format R: the address on `rd_addr`. -/
  | readAddr (a : BitVec 8)
  deriving DecidableEq, Repr

/-- The state a guard reads (R65): "A guard reads only `len_r`, `idx_r`, `chk_r` and `W[7:0]`". -/
structure Guards where
  lenR : Byte
  idxR : Byte
  chkR : Byte
  deriving DecidableEq, Repr

/-- Why a word decodes to no instruction. -/
inductive DecodeError
  /-- The phase field is 101, 110 or 111 (spec/30_encoding.md R69). -/
  | illegalPhase
  /-- `P = 010`: a byte operation of format B happens, no port operation (R66). -/
  | byteTransfer
  /-- `P = 011`: the two transfers are never both 1 (R66, R117). -/
  | bothTransfers
  deriving DecidableEq, Repr

/-- A row of format B of the opcode table (R67). `pattern` is the table's `match`. -/
structure ByteRow where
  mnemonic : String
  pattern : BitVec 11
  mask : BitVec 11
  guard : Guards → Byte → Bool
  build : Byte → Instr

end Sys2Proof
end

