-- ==== Sys2Proof/WellFormed.lean ====
section
/-! DEFINITION. Which terms of `Instr` stand for an operation of the block: the two rows of the opcode table whose guard
is on the byte itself shut out one byte value each (spec/30_encoding.md R67). Every other operand is admitted. -/

namespace Sys2Proof

/-- The guard of the row on its own byte: WS.DISCARD `b != 0xAA`, RL.LEN `b != 0x00` (R67). -/
def Instr.wf : Instr → Bool
  | .wsDiscard b => b != Config.startMarker
  | .rlLen b => b != 0x00#8
  | .wsStart | .rlZero | .rcLast _ | .rcMore _ | .rpMore _ | .rpLast _ | .rkMatch _ | .rkMismatch _ => true
  | .reset _ _ | .accept | .idle | .payloadRead _ => true

end Sys2Proof
end

