-- ==== Sys2Proof/Decode.lean ====
section
/-! DEFINITION. The decoder and the encoder of the operation words (spec/30_encoding.md R65 to R69). `byteRows` is the
format B part of the opcode table, read as R65 says: a row is chosen when `(W & mask) == match` and its guard holds. -/

namespace Sys2Proof

/-- The code of a phase (spec/10_state.md R23). -/
def Phase.code : Phase → BitVec 3
  | .waitStart => 0b000#3
  | .readLength => 0b001#3
  | .readCommand => 0b010#3
  | .readPayload => 0b011#3
  | .readChecksum => 0b100#3

/-- The phase a code stands for; 101, 110 and 111 stand for none (R23). -/
def Phase.ofCode (c : BitVec 3) : Option Phase :=
  if c = 0b000#3 then some .waitStart
  else if c = 0b001#3 then some .readLength
  else if c = 0b010#3 then some .readCommand
  else if c = 0b011#3 then some .readPayload
  else if c = 0b100#3 then some .readChecksum
  else none

/-- `phase_is_legal` of spec/41_interface.md R112. -/
def phaseLegal (c : BitVec 3) : Bool := (Phase.ofCode c).isSome

/-- `W = {phase[2:0], byte[7:0]}` (R65). -/
def byteWord (phase : BitVec 3) (b : Byte) : BitVec 11 := phase ++ b

/-- `W[7:0]` (R65). -/
def byteField (W : BitVec 11) : Byte := W.setWidth 8

/-- `P = {rst, xfer_in, xfer_out}` (R66). -/
def portWord (rst xferIn xferOut : Bool) : BitVec 3 :=
  BitVec.ofBool rst ++ BitVec.ofBool xferIn ++ BitVec.ofBool xferOut

/-- The guard of RP.LAST, `idx_r + 2 == len_r` (R67), on exact sums: R65 computes it to 9 bits, so it never wraps. -/
def lastPayloadByte (g : Guards) : Bool := g.idxR.toNat + 2 == g.lenR.toNat

/-- The ten format B rows of the opcode table, in its order (R67). -/
def byteRows : List ByteRow :=
  [ ⟨"WS.DISCARD", 0x000#11, 0x700#11, fun _ b => b != Config.startMarker, .wsDiscard⟩,
    ⟨"WS.START", 0x0AA#11, 0x7FF#11, fun _ _ => true, fun _ => .wsStart⟩,
    ⟨"RL.ZERO", 0x100#11, 0x7FF#11, fun _ _ => true, fun _ => .rlZero⟩,
    ⟨"RL.LEN", 0x100#11, 0x700#11, fun _ b => b != 0x00#8, .rlLen⟩,
    ⟨"RC.LAST", 0x200#11, 0x700#11, fun g _ => g.lenR == 1#8, .rcLast⟩,
    ⟨"RC.MORE", 0x200#11, 0x700#11, fun g _ => g.lenR != 1#8, .rcMore⟩,
    ⟨"RP.MORE", 0x300#11, 0x700#11, fun g _ => !lastPayloadByte g, .rpMore⟩,
    ⟨"RP.LAST", 0x300#11, 0x700#11, fun g _ => lastPayloadByte g, .rpLast⟩,
    ⟨"RK.MATCH", 0x400#11, 0x700#11, fun g b => b == g.chkR, .rkMatch⟩,
    ⟨"RK.MISMATCH", 0x400#11, 0x700#11, fun g b => b != g.chkR, .rkMismatch⟩ ]

/-- A row selects the operation when `(W & mask) == match` and its guard holds (R65). -/
def ByteRow.accepts (W : BitVec 11) (g : Guards) (r : ByteRow) : Bool :=
  W &&& r.mask == r.pattern && r.guard g (byteField W)

/-- The byte operation of a word and its guard operands; a word whose phase field is no phase is rejected (R69). -/
def decodeByteOp (W : BitVec 11) (g : Guards) : Except DecodeError Instr :=
  match byteRows.find? (ByteRow.accepts W g) with
  | some r => .ok (r.build (byteField W))
  | none => .error .illegalPhase

/-- The port operation of a port vector (R66): RESET ignores the other bits. -/
def decodePort (P : BitVec 3) : Except DecodeError Instr :=
  if P &&& 0b100#3 = 0b100#3 then .ok (.reset (P.getLsbD 1) (P.getLsbD 0))
  else if P = 0b001#3 then .ok .accept
  else if P = 0b000#3 then .ok .idle
  else if P = 0b010#3 then .error .byteTransfer
  else .error .bothTransfers

/-- The instruction of a word under the guard operands; total, rejecting by name. -/
def decode (w : OpWord) (g : Guards) : Except DecodeError Instr :=
  match w with
  | .byteOp W => decodeByteOp W g
  | .port P => decodePort P
  | .readAddr a => .ok (.payloadRead a)

/-- The word of a well-formed instruction (R65 to R67). -/
def encode : Instr → OpWord
  | .wsDiscard b => .byteOp (byteWord Phase.waitStart.code b)
  | .wsStart => .byteOp (byteWord Phase.waitStart.code Config.startMarker)
  | .rlZero => .byteOp (byteWord Phase.readLength.code 0x00#8)
  | .rlLen b => .byteOp (byteWord Phase.readLength.code b)
  | .rcLast b => .byteOp (byteWord Phase.readCommand.code b)
  | .rcMore b => .byteOp (byteWord Phase.readCommand.code b)
  | .rpMore b => .byteOp (byteWord Phase.readPayload.code b)
  | .rpLast b => .byteOp (byteWord Phase.readPayload.code b)
  | .rkMatch b => .byteOp (byteWord Phase.readChecksum.code b)
  | .rkMismatch b => .byteOp (byteWord Phase.readChecksum.code b)
  | .reset i o => .port (portWord true i o)
  | .accept => .port (portWord false false true)
  | .idle => .port (portWord false false false)
  | .payloadRead a => .readAddr a

/-- The guard of an instruction's row on the guard operands (R67): the part of the selection its word does not hold. -/
def Instr.guardHolds (g : Guards) : Instr → Bool
  | .rcLast _ => g.lenR == 1#8
  | .rcMore _ => g.lenR != 1#8
  | .rpMore _ => !lastPayloadByte g
  | .rpLast _ => lastPayloadByte g
  | .rkMatch b => b == g.chkR
  | .rkMismatch b => b != g.chkR
  | .wsDiscard _ | .wsStart | .rlZero | .rlLen _ => true
  | .reset _ _ | .accept | .idle | .payloadRead _ => true

/-- The opcode table gives a guard operand no bits, so in a table word all of them are zero (log 7). -/
def tableGuards : Guards := ⟨0#8, 0#8, 0#8⟩

/-- The instruction of a word numbered as spec/opcode_table.json numbers it (log 7, DESIGN CHOICE). Two bytes hold an
11-bit operation word. One byte holds a port vector where it is the vector of a port operation, and a read address
otherwise: the table gives both formats one byte. -/
def decodeTableWord (nbits w : Nat) : Option Instr :=
  if nbits = 16 ∨ nbits = 11 then
    if w < 2048 then (decodeByteOp (BitVec.ofNat 11 w) tableGuards).toOption else none
  else if nbits = 8 ∨ nbits = 3 then
    if w < 8 then
      match decodePort (BitVec.ofNat 3 w) with
      | .ok i => some i
      | .error _ => some (.payloadRead (BitVec.ofNat 8 w))
    else if w < 256 then some (.payloadRead (BitVec.ofNat 8 w)) else none
  else none

end Sys2Proof
end

