-- ==== Sys2Proof/Machine/State.lean ====
section
/-! DEFINITION. The state of one decoder instance (spec/10_state.md R20), the environment's moves it reads, the results
it can show, and the state after reset (R35). State is plain data. -/

namespace Sys2Proof.Machine

/-- The payload buffer: (address, byte) pairs in the canonical form `Memory.wf`. -/
abbrev Memory := List Host.Cell

/-- `res_kind` (R30), one bit: 0 FRAME, 1 CHKERR. -/
inductive ResultKind
  | frame
  | chkErr
  deriving DecidableEq, Repr

/-- The inputs sampled at one rising edge of `clk` (spec/41_interface.md R110). -/
structure Edge where
  rst : Bool
  inValid : Bool
  inData : Byte
  resReady : Bool
  deriving DecidableEq, Repr

/-- One move of the environment: a rising edge with its sampled inputs, or the consumer driving an address on the
combinational read port between two edges (R43, R119; log 12). -/
inductive Stimulus
  | edge (e : Edge)
  | read (a : Byte)
  deriving DecidableEq, Repr

/-- What a step may emit (spec/40_frame_decode.md R80). -/
inductive Result
  | frame (cmd len : Byte) (payload : List Byte)
  | chkErr (cmd len : Byte)
  deriving DecidableEq, Repr

/-- The two FramingErrors of the block (spec/60_exceptions.md R130 to R132). -/
inductive FramingError
  | zeroLength
  | checksumMismatch
  deriving DecidableEq, Repr

/-- The faults of the block: none. "The block has no fault state: every legal state and byte has a defined step"
(spec/93_implementation_defined.md; spec/60_exceptions.md R136). Safe (log 20). -/
inductive Fault
  deriving DecidableEq, Repr

/-- Why the model has no such step. -/
inductive Refusal
  /-- Raised by `exec` for an instruction whose meaning is not written yet: none is left. Safe. -/
  | notModelled (mnemonic : String)
  /-- Raised by the meaning of a byte operation executed where its phase, its guard or `res_valid = 0` fails: the block
  selects another operation there, or consumes no byte (R65, R80, 93 U9; log 6). Safe; `step` never raises it. -/
  | notSelected
  /-- Raised by `react` where the selected word decodes to no instruction. Safe; it never happens. -/
  | noOperation
  deriving DecidableEq, Repr

/-- One decoder instance. The first eight fields are R20's table; `rdAddr` and `pending` are the model's own: inputs
of a step (log 1, log 3). -/
structure State where
  phase : BitVec 3
  lenR : Byte
  cmdR : Byte
  chkR : Byte
  idxR : Byte
  buf : Memory
  resValid : Bool
  resKind : ResultKind
  rdAddr : Byte
  pending : List Stimulus
  deriving DecidableEq, Repr

/-- The state after reset (R35) with any buffer contents, any driven read address and any coming inputs: R36 makes the
contents "a free input of the initial state". -/
def State.resetWith (buf : Memory) (rdAddr : Byte) (pending : List Stimulus) : State where
  phase := Phase.waitStart.code
  lenR := 0x00#8
  cmdR := 0x00#8
  chkR := 0x00#8
  idxR := 0x00#8
  buf := buf
  resValid := false
  resKind := .frame
  rdAddr := rdAddr
  pending := pending

/-- The state right after reset: nothing listed in the buffer, address 0x00 driven, no input coming (DESIGN CHOICE for
these three, log 2, log 3, log 4). -/
def State.reset : State := State.resetWith [] 0x00#8 []

end Sys2Proof.Machine
end

