-- ==== Sys2Proof/Machine/Memory.lean ====
section
/-! DEFINITION. The payload buffer as a sparse list of bytes (spec/20_memory.md R40 to R43): reading, writing, and the
canonical form that makes equal buffers equal data. -/

namespace Sys2Proof.Machine

/-- What an unlisted entry reads as. The spec leaves the contents after power-up free (93 U1); DESIGN CHOICE, unsafe
(log 2). -/
def Memory.unwritten : Byte := 0x00#8

/-- `MemRead(a, 1)` (spec/00_scope.md R12; R43). -/
def Memory.read : Memory → Nat → Byte
  | [], _ => Memory.unwritten
  | c :: m, a => if c.1 = a then c.2 else Memory.read m a

/-- The buffer without an entry for `a`. -/
def Memory.without (m : Memory) (a : Nat) : Memory := m.filter (fun c => c.1 != a)

/-- `(a, b)` put before the first entry above `a`. -/
def Memory.place : Memory → Nat → Byte → Memory
  | [], a, b => [(a, b)]
  | c :: m, a, b => if a < c.1 then (a, b) :: c :: m else c :: Memory.place m a b

/-- `MemWrite(a, 1, b)` (R12; R41): one whole byte, every other entry kept (R50). -/
def Memory.write (m : Memory) (a : Nat) (b : Byte) : Memory :=
  if b = Memory.unwritten then m.without a else Memory.place (m.without a) a b

/-- The canonical form: addresses strictly rising and inside the 256 entries, no entry equal to what an unlisted
one reads as. -/
abbrev Memory.wf (m : Memory) : Prop :=
  m.Pairwise (fun c d => c.1 < d.1) ∧ ∀ c ∈ m, c.1 < Config.bufDepth ∧ c.2 ≠ Memory.unwritten

end Sys2Proof.Machine
end

