-- ==== Sys2Proof/Machine/Operands.lean ====
section
/-! DEFINITION. The operands of the operations: the guard operands, the operation word of a state and a byte, the port
vector, and the payload slice of a frame (spec/30_encoding.md R62, R65, R66, R68). -/

namespace Sys2Proof.Machine

/-- `XOR(s)`: the fold of `^` over `s` from 0x00 (spec/00_scope.md R11). -/
def xorBytes (s : List Byte) : Byte := s.foldr (· ^^^ ·) 0x00#8

/-- The guard operands, read from the state before the step (R65). -/
def State.guards (s : State) : Guards := ⟨s.lenR, s.idxR, s.chkR⟩

/-- The operation word of the state and the consumed byte (R65). -/
def State.opWord (s : State) (b : Byte) : BitVec 11 := byteWord s.phase b

/-- The block is in `p` and free to consume a byte: the domain of `feed` (spec/40_frame_decode.md R80) and the phase
field of the word (R65). -/
def State.readyIn (s : State) (p : Phase) : Bool := s.phase == p.code && !s.resValid

/-- `in_ready = !rst && !res_valid && phase_is_legal` (spec/41_interface.md R112). -/
def State.inReady (s : State) (rst : Bool) : Bool := !rst && !s.resValid && phaseLegal s.phase

/-- `xfer_in = in_valid && in_ready` (R66). -/
def State.xferIn (s : State) (e : Edge) : Bool := e.inValid && s.inReady e.rst

/-- `xfer_out = res_valid && res_ready` (R66). -/
def State.xferOut (s : State) (e : Edge) : Bool := s.resValid && e.resReady

/-- The port vector sampled at an edge (R66). -/
def State.portVector (s : State) (e : Edge) : BitVec 3 := portWord e.rst (s.xferIn e) (s.xferOut e)

/-- `buf[0] … buf[n-1]`, in arrival order (spec/20_memory.md R47). -/
def State.payloadPrefix (s : State) (n : Nat) : List Byte := (List.range n).map (fun k => s.buf.read k)

/-- The payload slice `buf[0] … buf[len_r - 2]`, empty when `len_r = 1` (R44, R62). -/
def State.payload (s : State) : List Byte := s.payloadPrefix (s.lenR.toNat - 1)

/-- The checksum's closed form over the first `n` payload bytes, `len_r ^ cmd_r ^ XOR(buf[0..n-1])` (R34, R94). -/
def State.closedForm (s : State) (n : Nat) : Byte := s.lenR ^^^ s.cmdR ^^^ xorBytes (s.payloadPrefix n)

end Sys2Proof.Machine
end

