-- ==== Sys2Proof/Machine/Flags.lean ====
section
/-! DEFINITION. The result flags `res_valid` and `res_kind` (spec/10_state.md R29, R30) and the result they announce
(spec/20_memory.md R44). They are the block's only flags (R31). -/

namespace Sys2Proof.Machine

/-- The bit of `res_kind` (R30). -/
def ResultKind.bit : ResultKind → BitVec 1
  | .frame => 0#1
  | .chkErr => 1#1

/-- A ReadChecksum operation sets `res_valid` and writes `res_kind` (R29, R30). -/
def State.setResult (s : State) (k : ResultKind) : State := { s with resValid := true, resKind := k }

/-- ACCEPT clears `res_valid` and leaves `res_kind` (R29; spec/41_interface.md R116). -/
def State.clearResult (s : State) : State := { s with resValid := false }

/-- The result that waits for the consumer (R44; spec/40_frame_decode.md R90, R91). Nothing waits while `res_valid`
is 0. -/
def State.result (s : State) : Option Result :=
  if s.resValid then
    match s.resKind with
    | .frame => some (.frame s.cmdR s.lenR s.payload)
    | .chkErr => some (.chkErr s.cmdR s.lenR)
  else none

end Sys2Proof.Machine
end

