-- ==== Sys2Proof/Machine/Ops.lean ====
section
/-! DEFINITION. The shared operations of the meanings: the phase, the working registers, the buffer, taking a
FramingError, reset, and the selection test. Each reads the state from before the step (spec/00_scope.md R12). -/

namespace Sys2Proof.Machine

/-- `phase <- p` (R12). -/
def State.goto (s : State) (p : Phase) : State := { s with phase := p.code }

/-- `idx_r <- 0` (spec/10_state.md R27). -/
def State.clearIndex (s : State) : State := { s with idxR := 0x00#8 }

/-- The length byte sets `len_r` and `chk_r` (R24, R26; R84 and R85 of spec/40_frame_decode.md). -/
def State.loadLength (s : State) (b : Byte) : State := { s with lenR := b, chkR := b }

/-- The command byte sets `cmd_r`, folds into `chk_r` and clears `idx_r` (R25 to R27; R86, R87). -/
def State.loadCommand (s : State) (b : Byte) : State :=
  { s with cmdR := b, chkR := s.chkR ^^^ b, idxR := 0x00#8 }

/-- A payload byte is written to `buf[idx_r]`, folds into `chk_r`, and moves `idx_r` on by one (R88, R89;
spec/20_memory.md R41). In states no run reaches the 8-bit sum wraps (log 9). -/
def State.storePayload (s : State) (b : Byte) : State :=
  { s with buf := s.buf.write s.idxR.toNat b, chkR := s.chkR ^^^ b, idxR := s.idxR + 1#8 }

/-- Taking a FramingError (spec/60_exceptions.md R136): the phase becomes WaitStart, and a checksum mismatch sets the
result flags to CHKERR. Nothing else is written, and there is nothing to return to (R137). -/
def State.takeFramingError (s : State) : FramingError → State
  | .zeroLength => s.goto .waitStart
  | .checksumMismatch => (s.goto .waitStart).setResult .chkErr

/-- RESET's register values (spec/70_reset_and_hazards.md R150, spec/10_state.md R35); the buffer keeps its contents. -/
def State.resetRegisters (s : State) : State := State.resetWith s.buf s.rdAddr s.pending

/-- The recovery of an illegal phase code (R23): WaitStart, no byte consumed, every other register kept. A legal phase
stays. -/
def State.recoverPhase (s : State) : State := if phaseLegal s.phase then s else s.goto .waitStart

/-- The consumer drives `a` on `rd_addr` (spec/20_memory.md R43). A read has no other effect (R50). -/
def State.driveReadAddress (s : State) (a : Byte) : State := { s with rdAddr := a }

/-- A byte operation runs only where the block selects it (spec/30_encoding.md R65; log 6). -/
def whenSelected (c : Bool) (t : State) : Host.Outcome State Fault Refusal :=
  if c then .next t else .refused .notSelected

end Sys2Proof.Machine
end

