-- ==== Sys2Proof/Machine/ByteOps.lean ====
section
/-! DEFINITION. The ten byte operations (spec/40_frame_decode.md R82 to R91), one meaning each. The condition of each is
the selection of its row (spec/30_encoding.md R65, R67) in a state in which the block consumes a byte (R80). -/

namespace Sys2Proof.Machine

/-- WS.DISCARD (R82). -/
def execWsDiscard (b : Byte) (s : State) : Host.Outcome State Fault Refusal :=
  whenSelected (s.readyIn .waitStart && b != Config.startMarker) s

/-- WS.START (R83). -/
def execWsStart (s : State) : Host.Outcome State Fault Refusal :=
  whenSelected (s.readyIn .waitStart) (s.clearIndex.goto .readLength)

/-- RL.ZERO (R84): a zero length is loaded, and the zero-length FramingError is taken (R131; log 10). -/
def execRlZero (s : State) : Host.Outcome State Fault Refusal :=
  whenSelected (s.readyIn .readLength) ((s.loadLength 0x00#8).takeFramingError .zeroLength)

/-- RL.LEN (R85). -/
def execRlLen (b : Byte) (s : State) : Host.Outcome State Fault Refusal :=
  whenSelected (s.readyIn .readLength && b != 0x00#8) ((s.loadLength b).goto .readCommand)

/-- RC.LAST (R86). -/
def execRcLast (b : Byte) (s : State) : Host.Outcome State Fault Refusal :=
  whenSelected (s.readyIn .readCommand && s.lenR == 1#8) ((s.loadCommand b).goto .readChecksum)

/-- RC.MORE (R87). -/
def execRcMore (b : Byte) (s : State) : Host.Outcome State Fault Refusal :=
  whenSelected (s.readyIn .readCommand && s.lenR != 1#8) ((s.loadCommand b).goto .readPayload)

/-- RP.MORE (R88): the phase is unchanged. -/
def execRpMore (b : Byte) (s : State) : Host.Outcome State Fault Refusal :=
  whenSelected (s.readyIn .readPayload && !lastPayloadByte s.guards) (s.storePayload b)

/-- RP.LAST (R89). -/
def execRpLast (b : Byte) (s : State) : Host.Outcome State Fault Refusal :=
  whenSelected (s.readyIn .readPayload && lastPayloadByte s.guards) ((s.storePayload b).goto .readChecksum)

/-- RK.MATCH (R90). -/
def execRkMatch (b : Byte) (s : State) : Host.Outcome State Fault Refusal :=
  whenSelected (s.readyIn .readChecksum && b == s.chkR) ((s.goto .waitStart).setResult .frame)

/-- RK.MISMATCH (R91): the checksum FramingError is taken (R132). -/
def execRkMismatch (b : Byte) (s : State) : Host.Outcome State Fault Refusal :=
  whenSelected (s.readyIn .readChecksum && b != s.chkR) (s.takeFramingError .checksumMismatch)

end Sys2Proof.Machine
end

