-- ==== Sys2Proof/Machine/PortOps.lean ====
section
/-! DEFINITION. The port operations: RESET (spec/70_reset_and_hazards.md R150), ACCEPT and IDLE (spec/41_interface.md
R116, R118), and PAYLOAD_READ (spec/20_memory.md R43). All four run in every state. -/

namespace Sys2Proof.Machine

/-- RESET (R150): "other bits ignored" (spec/30_encoding.md R66; log 11). -/
def execReset (_xferIn _xferOut : Bool) (s : State) : Host.Outcome State Fault Refusal :=
  .next s.resetRegisters

/-- ACCEPT (R116). Without a result it has no effect (R116's corner case); under an illegal phase code the recovery
comes first (spec/60_exceptions.md R135; log 14). -/
def execAccept (s : State) : Host.Outcome State Fault Refusal :=
  .next (if phaseLegal s.phase then s.clearResult else s.recoverPhase)

/-- IDLE (R118): no register changes, "the one exception is the recovery of an illegal phase code". -/
def execIdle (s : State) : Host.Outcome State Fault Refusal :=
  .next s.recoverPhase

/-- PAYLOAD_READ (R43): `a` is driven on `rd_addr`, and `rd_data` (`State.rdData`) shows `buf[a]`. -/
def execPayloadRead (a : Byte) (s : State) : Host.Outcome State Fault Refusal :=
  .next (s.driveReadAddress a)

end Sys2Proof.Machine
end

