-- ==== Sys2Proof/Machine/Dispatch.lean ====
section
/-! DEFINITION. One arm for each instruction, in the order of spec/opcode_table.json. -/

namespace Sys2Proof.Machine

def exec (i : Instr) (s : State) : Host.Outcome State Fault Refusal :=
  match i with
  | .wsDiscard b => Sys2Proof.Machine.execWsDiscard b s
  | .wsStart => Sys2Proof.Machine.execWsStart s
  | .rlZero => Sys2Proof.Machine.execRlZero s
  | .rlLen b => Sys2Proof.Machine.execRlLen b s
  | .rcLast b => Sys2Proof.Machine.execRcLast b s
  | .rcMore b => Sys2Proof.Machine.execRcMore b s
  | .rpMore b => Sys2Proof.Machine.execRpMore b s
  | .rpLast b => Sys2Proof.Machine.execRpLast b s
  | .rkMatch b => Sys2Proof.Machine.execRkMatch b s
  | .rkMismatch b => Sys2Proof.Machine.execRkMismatch b s
  | .reset xin xout => Sys2Proof.Machine.execReset xin xout s
  | .accept => Sys2Proof.Machine.execAccept s
  | .idle => Sys2Proof.Machine.execIdle s
  | .payloadRead a => Sys2Proof.Machine.execPayloadRead a s

end Sys2Proof.Machine
end

