-- ==== Sys2Proof/Machine/Ports.lean ====
section
/-! DEFINITION. The cycle-level interface (spec/41_interface.md): the outputs, the operation an environment's move
selects, the block's reaction to it, and the state a table word needs to run. -/

namespace Sys2Proof.Machine

/-- Output `res_cmd` (R115). -/
def State.resCmd (s : State) : Byte := s.cmdR

/-- Output `res_len` (R115). -/
def State.resLen (s : State) : Byte := s.lenR

/-- Output `rd_data = buf[rd_addr]`, combinational (spec/20_memory.md R43). -/
def State.rdData (s : State) : Byte := s.buf.read s.rdAddr.toNat

/-- The inputs of an edge at which nothing is asked of the block. -/
def Edge.quiet : Edge := ⟨false, false, 0x00#8, false⟩

/-- The word selected at an edge, in the order of spec/60_exceptions.md R135: RESET, recovery of an illegal phase (an
idle edge, R118; log 5), byte operation, ACCEPT, IDLE. The last two and RESET are the port vector's (R66). -/
def State.selectedWord (s : State) (e : Edge) : OpWord :=
  if e.rst then .port (s.portVector e)
  else if !phaseLegal s.phase then .port (portWord false false false)
  else if s.xferIn e then .byteOp (s.opWord e.inData)
  else .port (s.portVector e)

/-- The instruction a move of the environment selects. -/
def nextInstr (m : Stimulus) (s : State) : Except DecodeError Instr :=
  match m with
  | .edge e => decode (s.selectedWord e) s.guards
  | .read a => decode (.readAddr a) s.guards

/-- The block's reaction to one move: the selected instruction runs. -/
def react (m : Stimulus) (s : State) : Host.Outcome State Fault Refusal :=
  match nextInstr m s with
  | .ok i => exec i s
  | .error _ => .refused .noOperation

/-- The byte consumed at a move, if any (R113). -/
def State.consumed (s : State) : Stimulus → Option Byte
  | .edge e => if s.xferIn e then some e.inData else none
  | .read _ => none

/-- The result accepted at a move, if any (R116, R135). -/
def State.accepted (s : State) : Stimulus → Option Result
  | .edge e => if !e.rst && phaseLegal s.phase && s.xferOut e then s.result else none
  | .read _ => none

/-- The move at the head of the list; the environment does nothing when the list is empty (log 1). -/
def State.nextStimulus (s : State) : Stimulus :=
  match s.pending with
  | [] => .edge Edge.quiet
  | m :: _ => m

/-- The state with its first coming move taken. -/
def State.popStimulus (s : State) : State := { s with pending := s.pending.tail }

/-- `m` put before every coming move. -/
def State.pushStimulus (s : State) (m : Stimulus) : State := { s with pending := m :: s.pending }

/-- An edge that offers `b` and asks nothing else. -/
def Edge.offer (b : Byte) : Edge := ⟨false, true, b, false⟩

/-- The block made free to consume the byte `b` in phase `p`. -/
def State.arrangeByte (s : State) (p : Phase) (b : Byte) : State :=
  State.pushStimulus { s with phase := p.code, resValid := false } (.edge (Edge.offer b))

/-- The state whose next step runs `i` as a table word stands for it: the phase and byte of its operation word, the guard
operands zero where its row reads them (log 7, log 8), and for a port operation the inputs of its vector. -/
def State.arrange (s : State) : Instr → State
  | .wsDiscard b => s.arrangeByte .waitStart b
  | .wsStart => s.arrangeByte .waitStart Config.startMarker
  | .rlZero => s.arrangeByte .readLength 0x00#8
  | .rlLen b => s.arrangeByte .readLength b
  | .rcLast b => State.arrangeByte { s with lenR := 0x00#8 } .readCommand b
  | .rcMore b => State.arrangeByte { s with lenR := 0x00#8 } .readCommand b
  | .rpMore b => State.arrangeByte { s with lenR := 0x00#8, idxR := 0x00#8 } .readPayload b
  | .rpLast b => State.arrangeByte { s with lenR := 0x00#8, idxR := 0x00#8 } .readPayload b
  | .rkMatch b => State.arrangeByte { s with chkR := 0x00#8 } .readChecksum b
  | .rkMismatch b => State.arrangeByte { s with chkR := 0x00#8 } .readChecksum b
  | .reset i o => s.pushStimulus (.edge ⟨true, i, 0x00#8, o⟩)
  | .accept => State.pushStimulus { s.recoverPhase with resValid := true } (.edge ⟨false, false, 0x00#8, true⟩)
  | .idle => s.pushStimulus (.edge Edge.quiet)
  | .payloadRead a => s.pushStimulus (.read a)

/-- The state that runs the instruction of a table word at its next step (log 8); a word the decoder refuses changes
nothing. -/
def State.placeTableWord (s : State) (nbits w : Nat) : State :=
  match decodeTableWord nbits w with
  | some i => s.arrange i
  | none => s

end Sys2Proof.Machine
end

