-- ==== Sys2Proof/Machine/Step.lean ====
section
/-! DEFINITION. One step of the machine: the next move of the environment is taken and the block reacts to it
(spec/40_frame_decode.md R80, spec/41_interface.md R113 to R118, spec/60_exceptions.md R135). -/

namespace Sys2Proof.Machine

def step (s : State) : Host.Outcome State Fault Refusal := react s.nextStimulus s.popStimulus

def State.withFetchWord (s : State) (nbits w : Nat) : State := s.placeTableWord nbits w

end Sys2Proof.Machine
end

