-- ==== Sys2Proof/Machine/System.lean ====
section
/-! DEFINITION. Several decoder instances (spec/60_exceptions.md R144): `n` is `N_INSTANCES`, open (93 U13; log 13). Each
has its own state; nothing is shared. -/

namespace Sys2Proof.Machine

abbrev System (n : Nat) := Vector State n

/-- Instance `k` takes one step. -/
def stepInstance {n : Nat} (k : Fin n) (σ : System n) : Host.Outcome (System n) Fault Refusal :=
  match step σ[k] with
  | .next t => .next (σ.set k t)
  | .fault f => .fault f
  | .refused r => .refused r

end Sys2Proof.Machine
end

