-- ==== Sys2Proof/Machine/Feed.lean ====
section
/-! DEFINITION. The transaction level (spec/40_frame_decode.md R80, spec/41_interface.md R123, R124): `feed`, and runs
in which each result is accepted before the next byte (log 19). -/

namespace Sys2Proof.Machine

/-- `feed(s, b) -> (s', r)` (R80); `none` where it is not defined: a result is pending, or the phase is illegal. -/
def feed (b : Byte) (s : State) : Option (State × Option Result) :=
  if s.resValid || !phaseLegal s.phase then none
  else
    match decode (.byteOp (s.opWord b)) s.guards with
    | .error _ => none
    | .ok i =>
      match exec i s with
      | .next t => some (t, t.result)
      | .fault _ => none
      | .refused _ => none

/-- The bytes fed in order, each result accepted before the next byte (R124): the state at the end, with the last result
accepted too, and the results in order. -/
def feedAll : List Byte → State → Option (State × List Result)
  | [], s => some (s, [])
  | b :: bs, s =>
    match feed b s with
    | none => none
    | some (t, r) =>
      match feedAll bs t.clearResult with
      | none => none
      | some (u, rs) => some (u, r.toList ++ rs)

/-- An event of a transaction-level program: a byte, or the directive RESET (spec/30_encoding.md R71). -/
inductive TxEvent
  | byte (b : Byte)
  | reset
  deriving DecidableEq, Repr

/-- A transaction-level program: as `feedAll`, with resets (spec/70_reset_and_hazards.md R164). -/
def runProgram : List TxEvent → State → Option (State × List Result)
  | [], s => some (s, [])
  | .reset :: es, s => runProgram es s.resetRegisters
  | .byte b :: es, s =>
    match feed b s with
    | none => none
    | some (t, r) =>
      match runProgram es t.clearResult with
      | none => none
      | some (u, rs) => some (u, r.toList ++ rs)

/-- A cycle-level run over the environment's moves (R124): the state at the end, the bytes consumed and the results
accepted, in order. -/
def cycleRun : List Stimulus → State → Option (State × List Byte × List Result)
  | [], s => some (s, [], [])
  | m :: ms, s =>
    match react m s with
    | .next t =>
      match cycleRun ms t with
      | none => none
      | some (u, bs, rs) => some (u, (s.consumed m).toList ++ bs, (s.accepted m).toList ++ rs)
    | .fault _ => none
    | .refused _ => none

/-- The move is an edge with `rst = 1`. -/
def Stimulus.isReset : Stimulus → Bool
  | .edge e => e.rst
  | .read _ => false

/-- The move is an edge. -/
def Stimulus.isEdge : Stimulus → Bool
  | .edge _ => true
  | .read _ => false

end Sys2Proof.Machine
end

