-- ==== Sys2Proof/Machine/Wire.lean ====
section
/-! DEFINITION. The wire frame (spec/30_encoding.md R60 to R63) and the stream notation over it (R71, R72). -/

namespace Sys2Proof.Machine

/-- The length byte of a frame with payload `ps`: the command byte counts (R62). R71 gives a frame for at most 254
payload bytes; for a longer payload the byte is the count's low 8 bits (DESIGN CHOICE, log 23). -/
def lengthByte (ps : List Byte) : Byte := BitVec.ofNat 8 (ps.length + 1)

/-- The checksum of a frame (R63). -/
def checksum (c : Byte) (ps : List Byte) : Byte := lengthByte ps ^^^ c ^^^ xorBytes ps

/-- A frame on the wire with the byte `k` in the checksum's place (R60, R71 `FRAMEC`), a wire frame of the spec for at
most 254 payload bytes (log 23). -/
def frameWithChecksum (k c : Byte) (ps : List Byte) : List Byte :=
  Config.startMarker :: lengthByte ps :: c :: (ps ++ [k])

/-- A frame on the wire (R60, R71 `FRAME`), well formed for at most 254 payload bytes (log 23). -/
def frameBytes (c : Byte) (ps : List Byte) : List Byte := frameWithChecksum (checksum c ps) c ps

/-- The directives of the stream notation (R71). -/
inductive Directive
  | raw (bs : List Byte)
  | frame (c : Byte) (ps : List Byte)
  | framec (k c : Byte) (ps : List Byte)
  | zlen
  | reset
  deriving DecidableEq, Repr

/-- The expansion of a directive (R71). -/
def Directive.events : Directive → List TxEvent
  | .raw bs => bs.map .byte
  | .frame c ps => (frameBytes c ps).map .byte
  | .framec k c ps => (frameWithChecksum k c ps).map .byte
  | .zlen => [.byte Config.startMarker, .byte 0x00#8]
  | .reset => [.reset]

/-- A signed payload number as its two's complement byte (R71; log 17, PRESUMED by the spec's own note G1). A number that
is no byte is reduced to its low 8 bits (DESIGN CHOICE, log 23). -/
def signedByte (d : Int) : Byte := BitVec.ofInt 8 d

/-- `MOUSEMOVE dx, dy` (R72). -/
def mouseMove (dx dy : Int) : Directive := .frame 0x01#8 [signedByte dx, signedByte dy]

/-- `MOUSECLICK m` (R72). -/
def mouseClick (m : Byte) : Directive := .frame 0x02#8 [m]

/-- `MOUSEWHEEL d` (R72). -/
def mouseWheel (d : Int) : Directive := .frame 0x03#8 [signedByte d]

/-- `KEYCOMBO mods, k1, …, km` (R72), for at most 252 keys (log 23). -/
def keyCombo (mods : Byte) (ks : List Byte) : Directive := .frame 0x10#8 (mods :: BitVec.ofNat 8 ks.length :: ks)

/-- `KEYRELEASE` (R72). -/
def keyRelease : Directive := .frame 0x11#8 []

/-- `TYPETEXT s` (R72), the characters given as their bytes, at most 253 of them (log 23). -/
def typeText (cs : List Byte) : Directive := .frame 0x12#8 (BitVec.ofNat 8 cs.length :: cs)

end Sys2Proof.Machine
end

