-- ==== Sys2Proof/Safety.lean ====
section
/-! DEFINITION. What the claims call a safe state and a run: the invariant of spec/10_state.md R34, the states reachable
from a reset (R37), the table of who may write which register (R21), and the bound of spec/40_frame_decode.md R97. -/

namespace Sys2Proof.Machine

/-- R34, row by row, with the buffer's canonical form. The row for a pending result says more than R34: it keeps the
closed form of the checksum register and the payload count while the result waits (log 22). -/
structure Inv (s : State) : Prop where
  legalPhase : phaseLegal s.phase = true
  bufWf : s.buf.wf
  readLength : s.phase = Phase.readLength.code → s.idxR = 0#8
  readCommand : s.phase = Phase.readCommand.code → 1 ≤ s.lenR.toNat ∧ s.chkR = s.lenR ∧ s.idxR = 0#8
  readPayload : s.phase = Phase.readPayload.code →
    s.idxR.toNat + 2 ≤ s.lenR.toNat ∧ s.chkR = s.closedForm s.idxR.toNat
  readChecksum : s.phase = Phase.readChecksum.code →
    s.lenR.toNat = s.idxR.toNat + 1 ∧ s.chkR = s.closedForm s.idxR.toNat
  pendingResult : s.resValid = true →
    s.phase = Phase.waitStart.code ∧ s.lenR.toNat = s.idxR.toNat + 1 ∧ s.chkR = s.closedForm s.idxR.toNat

/-- Reachable by steps from a reset state with any buffer contents, driven address and coming inputs (R37). -/
inductive Reachable : State → Prop
  | start (m : Memory) (a : Byte) (ms : List Stimulus) (h : m.wf) : Reachable (State.resetWith m a ms)
  | step (s t : State) (hs : Reachable s) (h : Sys2Proof.Machine.step s = .next t) : Reachable t

/-- The registers of R21's table. -/
inductive Reg
  | phase
  | lenR
  | cmdR
  | chkR
  | idxR
  | resValid
  | resKind
  deriving DecidableEq, Repr

/-- "The operations that write each register" (R21). -/
def Reg.writtenBy : Reg → Instr → Bool
  | .phase, .wsStart | .phase, .rlZero | .phase, .rlLen _ | .phase, .rcLast _ | .phase, .rcMore _ => true
  | .phase, .rpLast _ | .phase, .rkMatch _ | .phase, .rkMismatch _ | .phase, .reset _ _ => true
  | .lenR, .rlZero | .lenR, .rlLen _ | .lenR, .reset _ _ => true
  | .cmdR, .rcLast _ | .cmdR, .rcMore _ | .cmdR, .reset _ _ => true
  | .chkR, .rlZero | .chkR, .rlLen _ | .chkR, .rcLast _ | .chkR, .rcMore _ => true
  | .chkR, .rpMore _ | .chkR, .rpLast _ | .chkR, .reset _ _ => true
  | .idxR, .wsStart | .idxR, .rcLast _ | .idxR, .rcMore _ => true
  | .idxR, .rpMore _ | .idxR, .rpLast _ | .idxR, .reset _ _ => true
  | .resValid, .rkMatch _ | .resValid, .rkMismatch _ | .resValid, .accept | .resValid, .reset _ _ => true
  | .resKind, .rkMatch _ | .resKind, .rkMismatch _ | .resKind, .reset _ _ => true
  | _, _ => false

/-- `t` holds the value of `s` in a register. -/
def Reg.same (s t : State) : Reg → Prop
  | .phase => t.phase = s.phase
  | .lenR => t.lenR = s.lenR
  | .cmdR => t.cmdR = s.cmdR
  | .chkR => t.chkR = s.chkR
  | .idxR => t.idxR = s.idxR
  | .resValid => t.resValid = s.resValid
  | .resKind => t.resKind = s.resKind

/-- The two operations that store a payload byte (spec/20_memory.md R41). -/
def storesPayload : Instr → Bool
  | .rpMore _ | .rpLast _ => true
  | _ => false

/-- The bytes after which the decoder is in WaitStart again, at most (R97). -/
def returnBound (s : State) : Nat :=
  if s.phase = Phase.readLength.code then 257
  else if s.phase = Phase.readCommand.code then 256
  else if s.phase = Phase.readPayload.code then s.lenR.toNat - s.idxR.toNat
  else if s.phase = Phase.readChecksum.code then 1
  else 0

end Sys2Proof.Machine
end

