-- ==== Sys2Proof/Certificates/Slice0/Obligations.lean ====
section
/-! DEFINITION. The statements for the provers, in the order of OBLIGATIONS.json. A statement writes the spec's own codes
and literals where the rule gives them. -/

open Sys2Proof Sys2Proof.Machine

/-! ### Encoding -/

/-- Words written out bit by bit from the rows of spec/30_encoding.md R67 decode to the rows' instructions. -/
def Obligations.WrittenWordsDecode : Prop :=
  ∀ g : Guards,
    decode (.byteOp 0b00011111111#11) g = .ok (.wsDiscard 0xFF#8) ∧
    decode (.byteOp 0b00010101010#11) g = .ok .wsStart ∧
    decode (.byteOp 0b00100000000#11) g = .ok .rlZero ∧
    decode (.byteOp 0b00110101010#11) g = .ok (.rlLen 0xAA#8) ∧
    decode (.port 0b100#3) g = .ok (.reset false false) ∧
    decode (.port 0b001#3) g = .ok .accept ∧
    decode (.port 0b000#3) g = .ok .idle ∧
    decode (.readAddr 0b11111101#8) g = .ok (.payloadRead 0xFD#8)

/-- Decoding the encoding of a well-formed instruction gives it back, with every operand, under every value of the guard
operands for which its row's guard holds (spec/30_encoding.md section 2). -/
def Obligations.DecodeOfEncode : Prop :=
  ∀ (i : Instr) (g : Guards), i.wf = true → i.guardHolds g = true → decode (encode i) g = .ok i

/-- A word that decodes has one meaning: the instruction is well formed, its row's guard holds, and its encoding is that
word (spec/30_encoding.md section 2). -/
def Obligations.EncodeOfDecode : Prop :=
  ∀ (w : OpWord) (g : Guards) (i : Instr), decode w g = .ok i → i.wf = true ∧ i.guardHolds g = true ∧ encode i = w

/-- For every legal phase code, byte and guard operands exactly one format B row accepts the word, and exactly one
well-formed instruction whose guard holds has it as its encoding; for 101, 110 and 111 no row accepts
(spec/40_frame_decode.md R81, the spec's own derivation). -/
def Obligations.ExactlyOneRowAccepts : Prop :=
  ∀ (c : BitVec 3) (b : Byte) (g : Guards),
    (c.toNat ≤ 4 → (byteRows.filter (ByteRow.accepts (c ++ b) g)).length = 1 ∧
      ∃ i : Instr, (i.wf = true ∧ i.guardHolds g = true ∧ encode i = .byteOp (c ++ b)) ∧
        ∀ j : Instr, j.wf = true → j.guardHolds g = true → encode j = .byteOp (c ++ b) → j = i) ∧
    (5 ≤ c.toNat → (byteRows.filter (ByteRow.accepts (c ++ b) g)).length = 0)

/-- The encodings that name no operation are rejected by name: the phase fields 101, 110, 111, the port vector `010`, which
is a byte transfer, and `011`, which never occurs (spec/30_encoding.md sections 2 and 5). -/
def Obligations.IllegalWordsAreRejected : Prop :=
  ∀ g : Guards,
    (∀ (c : BitVec 3) (b : Byte), 5 ≤ c.toNat → decode (.byteOp (c ++ b)) g = .error .illegalPhase) ∧
    decode (.port 0b010#3) g = .error .byteTransfer ∧
    decode (.port 0b011#3) g = .error .bothTransfers

/-! ### The byte operations (spec/40_frame_decode.md R82 to R91) -/

/-- WS.DISCARD (R82). -/
def Obligations.WsDiscardWritesNothing : Prop :=
  ∀ (b : Byte) (s : State), s.phase = 0b000#3 → s.resValid = false → b ≠ 0xAA#8 →
    decode (.byteOp (0b000#3 ++ b)) s.guards = .ok (.wsDiscard b) ∧
    exec (.wsDiscard b) s = .next s ∧
    feed b s = some (s, none)

/-- WS.START (R83), and its corner cases: 0xAA is a start marker only here, the next byte overwrites `len_r` and `chk_r`,
and a second 0xAA is the length byte 170. -/
def Obligations.WsStartOpensFrame : Prop :=
  ∀ s : State, s.phase = 0b000#3 → s.resValid = false →
    decode (.byteOp 0x0AA#11) s.guards = .ok .wsStart ∧
    exec .wsStart s = .next { s with idxR := 0x00#8, phase := 0b001#3 } ∧
    feed 0xAA#8 s = some ({ s with idxR := 0x00#8, phase := 0b001#3 }, none) ∧
    (∀ (c : BitVec 3) (g : Guards) (i : Instr), decode (.byteOp (c ++ 0xAA#8)) g = .ok i → (i = .wsStart ↔ c = 0b000#3)) ∧
    (∀ b : Byte, ∃ t : State, feedAll [0xAA#8, b] s = some (t, []) ∧ t.lenR = b ∧ t.chkR = b ∧ t.cmdR = s.cmdR) ∧
    feedAll [0xAA#8, 0xAA#8] s =
      some ({ s with idxR := 0x00#8, lenR := 0xAA#8, chkR := 0xAA#8, phase := 0b010#3 }, [])

/-- RL.ZERO (R84), and its corner cases: after it a 0xAA starts a new frame at once, and any other byte is discarded. -/
def Obligations.RlZeroDropsFrame : Prop :=
  ∀ s : State, s.phase = 0b001#3 → s.resValid = false →
    decode (.byteOp 0x100#11) s.guards = .ok .rlZero ∧
    exec .rlZero s = .next { s with lenR := 0x00#8, chkR := 0x00#8, phase := 0b000#3 } ∧
    feed 0x00#8 s = some ({ s with lenR := 0x00#8, chkR := 0x00#8, phase := 0b000#3 }, none) ∧
    feedAll [0x00#8, 0xAA#8] s =
      some ({ s with lenR := 0x00#8, chkR := 0x00#8, idxR := 0x00#8, phase := 0b001#3 }, []) ∧
    feedAll [0x00#8, 0x01#8, 0x11#8, 0x10#8] s =
      some ({ s with lenR := 0x00#8, chkR := 0x00#8, phase := 0b000#3 }, [])

/-- RL.LEN (R85), for every length byte 0x01 to 0xFF. -/
def Obligations.RlLenLoadsLength : Prop :=
  ∀ (b : Byte) (s : State), s.phase = 0b001#3 → s.resValid = false → b ≠ 0x00#8 →
    decode (.byteOp (0b001#3 ++ b)) s.guards = .ok (.rlLen b) ∧
    exec (.rlLen b) s = .next { s with lenR := b, chkR := b, phase := 0b010#3 } ∧
    feed b s = some ({ s with lenR := b, chkR := b, phase := 0b010#3 }, none)

/-- RC.LAST (R86); in a state of the invariant `chk_r` becomes `0x01 ^ b`. -/
def Obligations.RcLastLoadsCommand : Prop :=
  ∀ (b : Byte) (s : State), s.phase = 0b010#3 → s.resValid = false → s.lenR = 0x01#8 →
    decode (.byteOp (0b010#3 ++ b)) s.guards = .ok (.rcLast b) ∧
    exec (.rcLast b) s = .next { s with cmdR := b, chkR := s.chkR ^^^ b, idxR := 0x00#8, phase := 0b100#3 } ∧
    feed b s = some ({ s with cmdR := b, chkR := s.chkR ^^^ b, idxR := 0x00#8, phase := 0b100#3 }, none) ∧
    (Inv s → s.chkR ^^^ b = 0x01#8 ^^^ b)

/-- RC.MORE (R87); in a state of the invariant its guard means `len_r >= 2`. -/
def Obligations.RcMoreLoadsCommand : Prop :=
  ∀ (b : Byte) (s : State), s.phase = 0b010#3 → s.resValid = false → s.lenR ≠ 0x01#8 →
    decode (.byteOp (0b010#3 ++ b)) s.guards = .ok (.rcMore b) ∧
    exec (.rcMore b) s = .next { s with cmdR := b, chkR := s.chkR ^^^ b, idxR := 0x00#8, phase := 0b011#3 } ∧
    feed b s = some ({ s with cmdR := b, chkR := s.chkR ^^^ b, idxR := 0x00#8, phase := 0b011#3 }, none) ∧
    (Inv s → 2 ≤ s.lenR.toNat)

/-- RP.MORE (R88): the byte stands at the index from before the step, and every other entry is kept. In a state of the
invariant the index is at most 252, and with `len_r = 2` the operation does not apply. -/
def Obligations.RpMoreStoresByte : Prop :=
  ∀ (b : Byte) (s : State), s.phase = 0b011#3 → s.resValid = false → s.idxR.toNat + 2 ≠ s.lenR.toNat →
    decode (.byteOp (0b011#3 ++ b)) s.guards = .ok (.rpMore b) ∧
    (∃ m : Memory, m.read s.idxR.toNat = b ∧ (∀ a, a ≠ s.idxR.toNat → m.read a = s.buf.read a) ∧
      exec (.rpMore b) s = .next { s with buf := m, chkR := s.chkR ^^^ b, idxR := s.idxR + 1#8 } ∧
      feed b s = some ({ s with buf := m, chkR := s.chkR ^^^ b, idxR := s.idxR + 1#8 }, none)) ∧
    (Inv s → s.idxR.toNat ≤ 252 ∧ s.lenR ≠ 0x02#8)

/-- RP.LAST (R89): as RP.MORE, into ReadChecksum, and `idx_r` becomes the payload count `len_r - 1`. -/
def Obligations.RpLastStoresLastByte : Prop :=
  ∀ (b : Byte) (s : State), s.phase = 0b011#3 → s.resValid = false → s.idxR.toNat + 2 = s.lenR.toNat →
    decode (.byteOp (0b011#3 ++ b)) s.guards = .ok (.rpLast b) ∧
    (∃ m : Memory, m.read s.idxR.toNat = b ∧ (∀ a, a ≠ s.idxR.toNat → m.read a = s.buf.read a) ∧
      exec (.rpLast b) s =
        .next { s with buf := m, chkR := s.chkR ^^^ b, idxR := s.idxR + 1#8, phase := 0b100#3 } ∧
      feed b s =
        some ({ s with buf := m, chkR := s.chkR ^^^ b, idxR := s.idxR + 1#8, phase := 0b100#3 }, none)) ∧
    s.idxR + 1#8 = s.lenR - 1#8

/-- RK.MATCH (R90): the frame is delivered with the payload `buf[0 .. len_r-2]`. -/
def Obligations.RkMatchDeliversFrame : Prop :=
  ∀ (b : Byte) (s : State), s.phase = 0b100#3 → s.resValid = false → b = s.chkR →
    decode (.byteOp (0b100#3 ++ b)) s.guards = .ok (.rkMatch b) ∧
    exec (.rkMatch b) s = .next { s with phase := 0b000#3, resValid := true, resKind := .frame } ∧
    feed b s = some ({ s with phase := 0b000#3, resValid := true, resKind := .frame },
      some (.frame s.cmdR s.lenR ((List.range (s.lenR.toNat - 1)).map fun k => s.buf.read k)))

/-- RK.MISMATCH (R91): a checksum error is reported and no payload is delivered. -/
def Obligations.RkMismatchReportsError : Prop :=
  ∀ (b : Byte) (s : State), s.phase = 0b100#3 → s.resValid = false → b ≠ s.chkR →
    decode (.byteOp (0b100#3 ++ b)) s.guards = .ok (.rkMismatch b) ∧
    exec (.rkMismatch b) s = .next { s with phase := 0b000#3, resValid := true, resKind := .chkErr } ∧
    feed b s = some ({ s with phase := 0b000#3, resValid := true, resKind := .chkErr },
      some (.chkErr s.cmdR s.lenR))

/-! ### The port operations -/

/-- RESET (spec/70_reset_and_hazards.md R150, spec/10_state.md R35): the register values, the kept buffer, its priority at
an edge, and that it consumes and accepts nothing; a second reset edge changes nothing, and the block is then ready. -/
def Obligations.ResetWritesResetValues : Prop :=
  ∀ (s : State) (e : Edge) (i o : Bool), e.rst = true →
    ∃ t : State, exec (.reset i o) s = .next t ∧ react (.edge e) s = .next t ∧
      t.phase = 0b000#3 ∧ t.lenR = 0x00#8 ∧ t.cmdR = 0x00#8 ∧ t.chkR = 0x00#8 ∧ t.idxR = 0x00#8 ∧
      t.resValid = false ∧ t.resKind = .frame ∧ t.resKind.bit = 0#1 ∧ t.buf = s.buf ∧
      t.rdAddr = s.rdAddr ∧ t.pending = s.pending ∧ t.result = none ∧
      s.inReady e.rst = false ∧ s.consumed (.edge e) = none ∧ s.accepted (.edge e) = none ∧
      react (.edge e) t = .next t ∧ t.inReady false = true

/-- ACCEPT (spec/41_interface.md R116): it clears `res_valid` and nothing else, for both kinds of result; the block is then
ready, in WaitStart where the invariant holds; without a result `res_ready` has no effect. -/
def Obligations.AcceptTakesPendingResult : Prop :=
  ∀ (s : State) (e : Edge), s.phase.toNat ≤ 4 → e.rst = false → e.resReady = true →
    (s.resValid = true →
      exec .accept s = .next { s with resValid := false } ∧
      react (.edge e) s = .next { s with resValid := false } ∧
      State.inReady { s with resValid := false } false = true ∧
      (Inv s → s.phase = 0b000#3)) ∧
    (s.resValid = false → react (.edge e) s = react (.edge { e with resReady := false }) s)

/-- IDLE (spec/41_interface.md R118): no register changes, for any number of idle edges in any phase; an illegal phase code
recovers. -/
def Obligations.IdleEdgeKeepsState : Prop :=
  ∀ (s : State) (e : Edge), e.rst = false → s.xferIn e = false → s.xferOut e = false →
    react (.edge e) s = exec .idle s ∧
    (s.phase.toNat ≤ 4 → exec .idle s = .next s ∧
      ∀ n : Nat, cycleRun (List.replicate n (.edge e)) s = some (s, [], [])) ∧
    (5 ≤ s.phase.toNat → exec .idle s = .next { s with phase := 0b000#3 })

/-- PAYLOAD_READ (spec/20_memory.md R43): `rd_data = buf[rd_addr]` for every address in every state, with no side effect on
the block and the same value at a second read. -/
def Obligations.PayloadReadShowsEntry : Prop :=
  ∀ (a : Byte) (s : State),
    s.rdData = s.buf.read s.rdAddr.toNat ∧
    exec (.payloadRead a) s = .next { s with rdAddr := a } ∧
    react (.read a) s = .next { s with rdAddr := a } ∧
    State.rdData { s with rdAddr := a } = s.buf.read a.toNat ∧
    exec (.payloadRead a) { s with rdAddr := a } = .next { s with rdAddr := a }

/-- The phase codes of spec/10_state.md R23, and the recovery: no operation leaves a legal code for an illegal one, and from
an illegal code the next edge writes WaitStart and consumes no byte, whatever the inputs. That without `rst` this edge
writes nothing else, and so keeps a pending result, is the model's inference (log 5, DEDUCED) from R23 with
spec/41_interface.md R118 and spec/60_exceptions.md R135. -/
def Obligations.IllegalPhaseRecovers : Prop :=
  (Phase.waitStart.code = 0b000#3 ∧ Phase.readLength.code = 0b001#3 ∧ Phase.readCommand.code = 0b010#3 ∧
    Phase.readPayload.code = 0b011#3 ∧ Phase.readChecksum.code = 0b100#3) ∧
  (∀ (i : Instr) (s t : State), s.phase.toNat ≤ 4 → exec i s = .next t → t.phase.toNat ≤ 4) ∧
  (∀ (s : State) (e : Edge), 5 ≤ s.phase.toNat →
    s.inReady e.rst = false ∧ s.consumed (.edge e) = none ∧
    ∃ t : State, react (.edge e) s = .next t ∧ t.phase = 0b000#3 ∧
      (e.rst = false → t = { s with phase := 0b000#3 }))

/-- The model's choice (log 6, from spec/30_encoding.md R65 and spec/40_frame_decode.md R80): a byte operation stops, under
the name `notSelected`, exactly where the block does not select it. -/
def Obligations.ByteOperationStopsWhereNotSelected : Prop :=
  ∀ (i : Instr) (W : BitVec 11) (s : State), encode i = .byteOp W →
    (exec i s = .refused .notSelected ↔
      ¬ (s.resValid = false ∧ decode (.byteOp (s.phase ++ W.setWidth 8)) s.guards = .ok i))

/-- The model's choice (log 14, from spec/60_exceptions.md R135): ACCEPT executed under an illegal phase code is the
recovery, and executed without a result changes nothing. -/
def Obligations.AcceptElsewhereIsHarmless : Prop :=
  ∀ s : State,
    (5 ≤ s.phase.toNat → exec .accept s = .next { s with phase := 0b000#3 }) ∧
    (s.phase.toNat ≤ 4 → s.resValid = false → exec .accept s = .next s)

/-! ### The step -/

/-- A step takes the environment's next move and runs the instruction it selects on the state without that move: the
decoded operation word at a byte transfer, RESET under `rst`, ACCEPT or IDLE by the decoded port vector, PAYLOAD_READ at a
read. That the recovery of an illegal phase code is run as IDLE is the model's inference (log 5, DEDUCED):
spec/60_exceptions.md R135 lists the two apart, spec/41_interface.md R118 counts the recovery among the idle edges. With no
move left the step is an edge at which nothing is asked (the model's choice, log 1). -/
def Obligations.StepRunsSelectedInstruction : Prop :=
  ∀ (s : State) (ms : List Stimulus),
    (∀ (m : Stimulus) (i : Instr), s.pending = m :: ms → nextInstr m s = .ok i →
      step s = exec i { s with pending := ms }) ∧
    (∀ (e : Edge) (i : Instr), s.pending = .edge e :: ms →
      (e.rst = false → e.inValid = true → s.resValid = false → s.phase.toNat ≤ 4 →
        decode (.byteOp (s.phase ++ e.inData)) s.guards = .ok i → step s = exec i { s with pending := ms }) ∧
      (e.rst = true → step s = exec (.reset (s.xferIn e) (s.xferOut e)) { s with pending := ms }) ∧
      (e.rst = false → s.phase.toNat ≤ 4 → s.xferIn e = false →
        decode (.port (portWord false false (s.xferOut e))) s.guards = .ok i →
        step s = exec i { s with pending := ms }) ∧
      (e.rst = false → 5 ≤ s.phase.toNat → step s = exec .idle { s with pending := ms })) ∧
    (∀ a : Byte, s.pending = .read a :: ms → step s = exec (.payloadRead a) { s with pending := ms }) ∧
    (s.pending = [] → step s = exec .idle s)

/-- Every state has a next state: no byte and no input stops the block (spec/40_frame_decode.md section 3,
spec/60_exceptions.md section 1). -/
def Obligations.StepAlwaysAnswersNext : Prop :=
  ∀ s : State, ∃ t : State, step s = .next t

/-- The priority at an edge (spec/60_exceptions.md R135): RESET, recovery, byte operation, ACCEPT, IDLE; a byte operation
and ACCEPT never both apply; within a byte operation one instruction is decoded and run. That the recovery writes nothing
but the phase, and so keeps a pending result, is the model's inference (log 5, DEDUCED) from spec/10_state.md R23 with
spec/41_interface.md R118 and spec/60_exceptions.md R135. -/
def Obligations.EdgePriority : Prop :=
  ∀ (s : State) (e : Edge),
    (e.rst = true → ∃ i o, react (.edge e) s = exec (.reset i o) s ∧
      s.consumed (.edge e) = none ∧ s.accepted (.edge e) = none) ∧
    (e.rst = false → 5 ≤ s.phase.toNat → react (.edge e) s = .next { s with phase := 0b000#3 } ∧
      s.consumed (.edge e) = none ∧ s.accepted (.edge e) = none) ∧
    (e.rst = false → s.phase.toNat ≤ 4 → e.inValid = true → s.inReady e.rst = true →
      ∃ i : Instr, decode (.byteOp (s.phase ++ e.inData)) s.guards = .ok i ∧
        (∀ j, decode (.byteOp (s.phase ++ e.inData)) s.guards = .ok j → j = i) ∧
        (∃ t, exec i s = .next t) ∧ react (.edge e) s = exec i s ∧
        s.consumed (.edge e) = some e.inData ∧ s.accepted (.edge e) = none) ∧
    (e.rst = false → s.phase.toNat ≤ 4 → ¬ (e.inValid = true ∧ s.inReady e.rst = true) →
      s.resValid = true → e.resReady = true →
      react (.edge e) s = exec .accept s ∧ s.consumed (.edge e) = none ∧ s.accepted (.edge e) = s.result) ∧
    (e.rst = false → s.phase.toNat ≤ 4 → ¬ (e.inValid = true ∧ s.inReady e.rst = true) →
      ¬ (s.resValid = true ∧ e.resReady = true) →
      react (.edge e) s = exec .idle s ∧ s.consumed (.edge e) = none ∧ s.accepted (.edge e) = none) ∧
    ¬ ((e.inValid = true ∧ s.inReady e.rst = true) ∧ (s.resValid = true ∧ e.resReady = true))

/-- `in_ready` (spec/41_interface.md R112), and that `phase_is_legal` is 1 in every reachable state. -/
def Obligations.InReadyFormula : Prop :=
  (∀ (s : State) (r : Bool), s.inReady r = true ↔
    r = false ∧ s.resValid = false ∧
      (s.phase = 0b000#3 ∨ s.phase = 0b001#3 ∨ s.phase = 0b010#3 ∨ s.phase = 0b011#3 ∨ s.phase = 0b100#3)) ∧
  (∀ s : State, Reachable s → phaseLegal s.phase = true)

/-- A byte transfer (spec/41_interface.md R113): the state becomes that of `feed`, and its result shows on the flags; at an
edge without a transfer no byte is consumed and `in_data` is ignored. -/
def Obligations.ByteTransferIsFeed : Prop :=
  ∀ (s : State) (e : Edge),
    (e.rst = false → e.inValid = true → s.inReady e.rst = true →
      ∃ (t : State) (r : Option Result), feed e.inData s = some (t, r) ∧ react (.edge e) s = .next t ∧
        s.consumed (.edge e) = some e.inData ∧
        (r = none → t.resValid = false) ∧
        (∀ c n ps, r = some (.frame c n ps) → t.resValid = true ∧ t.resKind = .frame) ∧
        (∀ c n, r = some (.chkErr c n) → t.resValid = true ∧ t.resKind = .chkErr)) ∧
    (e.inValid = false ∨ s.inReady e.rst = false →
      s.consumed (.edge e) = none ∧
      ∀ d : Byte, react (.edge { e with inData := d }) s = react (.edge e) s)

/-- The model's `withFetchWord` (log 8): the next step after it runs the instruction the decoder reads from the table
word. -/
def Obligations.TableWordRunsNext : Prop :=
  ∀ (s : State) (nbits w : Nat) (i : Instr), decodeTableWord nbits w = some i →
    ∃ t : State, step (s.withFetchWord nbits w) = .next t ∧
      exec i { s.withFetchWord nbits w with pending := s.pending } = .next t

/-! ### Frames -/

/-- Who writes what (spec/10_state.md R21, the spec's own derivation): from a legal phase, a register an instruction is not
listed for keeps its value, the driven address changes by PAYLOAD_READ only, and no instruction takes a coming move. -/
def Obligations.RegistersKeepUnlessListed : Prop :=
  ∀ (i : Instr) (s t : State), s.phase.toNat ≤ 4 → exec i s = .next t →
    (∀ r : Reg, r.writtenBy i = false → r.same s t) ∧
    ((∀ a, i ≠ .payloadRead a) → t.rdAddr = s.rdAddr) ∧
    t.pending = s.pending

/-- A payload byte goes to the entry the index named before the step, and no other operation writes the buffer, reset
included (spec/20_memory.md R41). -/
def Obligations.OnlyPayloadBytesWriteBuffer : Prop :=
  (∀ (b : Byte) (s t : State) (r : Option Result), s.phase = 0b011#3 → feed b s = some (t, r) →
    t.buf.read s.idxR.toNat = b ∧ ∀ a, a ≠ s.idxR.toNat → t.buf.read a = s.buf.read a) ∧
  (∀ (i : Instr) (s t : State), (∀ b, i ≠ .rpMore b) → (∀ b, i ≠ .rpLast b) → exec i s = .next t →
    ∀ a, t.buf.read a = s.buf.read a)

/-! ### Invariants -/

/-- The invariant of spec/10_state.md R34 holds after reset, whatever the buffer holds. -/
def Obligations.InvHoldsAfterReset : Prop :=
  Inv State.reset ∧ ∀ (m : Memory) (a : Byte) (ms : List Stimulus), m.wf → Inv (State.resetWith m a ms)

/-- Every step keeps the invariant of spec/10_state.md R34. -/
def Obligations.InvKeptByStep : Prop :=
  ∀ s t : State, Inv s → step s = .next t → Inv t

/-- When a byte is consumed in ReadChecksum, `chk_r` is the closed form over the whole payload, so RK.MATCH applies exactly
to that byte (spec/40_frame_decode.md R94, the spec's own derivation). -/
def Obligations.ChecksumRegisterIsClosedForm : Prop :=
  ∀ s : State, Reachable s → s.phase = 0b100#3 →
    s.chkR = s.lenR ^^^ s.cmdR ^^^ xorBytes ((List.range (s.lenR.toNat - 1)).map fun k => s.buf.read k) ∧
    ∀ b : Byte, decode (.byteOp (s.phase ++ b)) s.guards = .ok (.rkMatch b) ↔
      b = s.lenR ^^^ s.cmdR ^^^ xorBytes ((List.range (s.lenR.toNat - 1)).map fun k => s.buf.read k)

/-- Only `buf[0]` to `buf[253]` are written (spec/20_memory.md R42, the spec's own derivation). -/
def Obligations.WritesStayBelow254 : Prop :=
  ∀ s t : State, Inv s → step s = .next t → ∀ a, 254 ≤ a → t.buf.read a = s.buf.read a

/-- No sum of the decoder wraps (spec/40_frame_decode.md R101, the spec's own derivation). -/
def Obligations.ArithmeticNeverWraps : Prop :=
  ∀ s : State, Inv s →
    (s.phase = 0b011#3 → s.idxR.toNat ≤ 253 ∧ (s.idxR + 1#8).toNat = s.idxR.toNat + 1 ∧
      s.idxR.toNat + 2 ≤ 255 ∧ 2 ≤ s.lenR.toNat) ∧
    (s.phase = 0b010#3 ∨ s.phase = 0b100#3 ∨ s.resValid = true →
      1 ≤ s.lenR.toNat ∧ (s.lenR - 1#8).toNat = s.lenR.toNat - 1)

/-! ### Results -/

/-- While a result waits, moves that neither reset nor accept leave every register and the buffer as they are, consume no
byte and accept nothing; only the driven address follows the reads (spec/20_memory.md R52, spec/41_interface.md R114, the
spec's own derivations). -/
def Obligations.PendingResultStaysUntilAccepted : Prop :=
  ∀ (s : State) (ms : List Stimulus), s.resValid = true → s.phase.toNat ≤ 4 →
    (∀ e : Edge, Stimulus.edge e ∈ ms → e.rst = false ∧ e.resReady = false) →
    ∃ a : Byte, cycleRun ms s = some ({ s with rdAddr := a }, [], [])

/-- `feed` (spec/40_frame_decode.md R80): where it is defined, that it is the decoded operation with its result, and that a
result comes only on the byte that completes a frame, a FRAME with a payload of `len - 1` bytes. -/
def Obligations.FeedDefinedExactlyWhenReady : Prop :=
  ∀ (b : Byte) (s : State),
    (feed b s ≠ none ↔ s.resValid = false ∧ s.phase.toNat ≤ 4) ∧
    (∀ (t : State) (r : Option Result), feed b s = some (t, r) ↔
      s.resValid = false ∧ ∃ i : Instr, decode (.byteOp (s.phase ++ b)) s.guards = .ok i ∧ exec i s = .next t ∧
        r = t.result) ∧
    (∀ (t : State) (r : Option Result), feed b s = some (t, r) →
      (r ≠ none ↔ s.phase = 0b100#3) ∧
      ∀ (c n : Byte) (ps : List Byte), r = some (.frame c n ps) → ps.length = n.toNat - 1)

/-- The two FramingErrors (spec/60_exceptions.md R131, R132): a zero length produces no result; a mismatch is reported as
CHKERR without a payload, and the ACCEPT drops it. Both return to WaitStart. -/
def Obligations.FramingErrorsReturnToWaitStart : Prop :=
  (∀ s : State, s.phase = 0b001#3 → s.resValid = false →
    ∃ t : State, feed 0x00#8 s = some (t, none) ∧ t.phase = 0b000#3 ∧ t.resValid = false ∧ t.result = none) ∧
  (∀ (b : Byte) (s : State), s.phase = 0b100#3 → s.resValid = false → b ≠ s.chkR →
    ∃ t u : State, feed b s = some (t, some (.chkErr s.cmdR s.lenR)) ∧ t.phase = 0b000#3 ∧ t.resValid = true ∧
      t.resKind = .chkErr ∧ t.resKind.bit = 1#1 ∧ t.result = some (.chkErr t.resCmd t.resLen) ∧
      exec .accept t = .next u ∧ u.result = none ∧ u.phase = 0b000#3)

/-- The transition table (spec/10_state.md R22), and that from a legal phase only a consumed byte or a reset changes it. -/
def Obligations.PhaseTransitionTable : Prop :=
  (∀ (b : Byte) (s t : State) (r : Option Result), feed b s = some (t, r) →
    (s.phase = 0b000#3 → b ≠ 0xAA#8 → t.phase = 0b000#3) ∧
    (s.phase = 0b000#3 → b = 0xAA#8 → t.phase = 0b001#3) ∧
    (s.phase = 0b001#3 → b = 0x00#8 → t.phase = 0b000#3) ∧
    (s.phase = 0b001#3 → b ≠ 0x00#8 → t.phase = 0b010#3) ∧
    (s.phase = 0b010#3 → s.lenR = 0x01#8 → t.phase = 0b100#3) ∧
    (s.phase = 0b010#3 → 2 ≤ s.lenR.toNat → t.phase = 0b011#3) ∧
    (s.phase = 0b011#3 → s.idxR.toNat + 2 ≠ s.lenR.toNat → t.phase = 0b011#3) ∧
    (s.phase = 0b011#3 → s.idxR.toNat + 2 = s.lenR.toNat → t.phase = 0b100#3) ∧
    (s.phase = 0b100#3 → t.phase = 0b000#3)) ∧
  (∀ (m : Stimulus) (s t : State), s.phase.toNat ≤ 4 → react m s = .next t → s.consumed m = none →
    m.isReset = false → t.phase = s.phase)

/-! ### Streams -/

/-- Frame fidelity (spec/40_frame_decode.md R95, the spec's own derivation): the bytes of a well-formed frame give exactly
one result, on the last byte, with the command and payload sent, the payload stands in the buffer, and the decoder is in
WaitStart. -/
def Obligations.FrameDeliveredFaithfully : Prop :=
  ∀ (c : Byte) (ps : List Byte) (s : State), ps.length ≤ 254 → s.phase = 0b000#3 → s.resValid = false →
    ∃ t u : State,
      feedAll (frameBytes c ps) s = some (t, [.frame c (BitVec.ofNat 8 (ps.length + 1)) ps]) ∧
      feedAll (frameBytes c ps).dropLast s = some (u, []) ∧
      t.phase = 0b000#3 ∧ ∀ (k : Nat) (h : k < ps.length), t.buf.read k = ps[k]

/-- A single flipped payload bit under a stale checksum gives exactly one CHKERR and no FRAME (spec/40_frame_decode.md R102,
the spec's own derivation). -/
def Obligations.PayloadBitFlipIsRejected : Prop :=
  ∀ (c : Byte) (ps : List Byte) (k : Nat) (h : k < ps.length) (bit : Nat) (s : State),
    ps.length ≤ 254 → bit < 8 → s.phase = 0b000#3 → s.resValid = false →
    ∃ t : State,
      feedAll (frameWithChecksum (checksum c ps) c (ps.set k (ps[k] ^^^ (1#8 <<< bit)))) s =
        some (t, [.chkErr c (BitVec.ofNat 8 (ps.length + 1))]) ∧ t.phase = 0b000#3

/-- What the checksum detects (spec/40_frame_decode.md R100, the spec's own derivation): with the length byte intact a frame
passes exactly when the XOR of its bytes is 0; an error pattern passes exactly when its own XOR is 0, that is when it flips
an even number of bits in every bit position; reordering the payload passes. -/
def Obligations.ChecksumDetectsNonzeroSyndrome : Prop :=
  ∀ (c k : Byte) (ps : List Byte) (s : State), ps.length ≤ 254 → s.phase = 0b000#3 → s.resValid = false →
    (∃ t : State, feedAll (frameWithChecksum k c ps) s = some (t,
      [if xorBytes (lengthByte ps :: c :: (ps ++ [k])) = 0x00#8 then .frame c (lengthByte ps) ps
       else .chkErr c (lengthByte ps)]) ∧ t.phase = 0b000#3) ∧
    (∀ (ec ek : Byte) (es : List Byte), es.length = ps.length →
      ∃ t : State, feedAll (frameWithChecksum (checksum c ps ^^^ ek) (c ^^^ ec) (List.zipWith (· ^^^ ·) ps es)) s =
        some (t, [if ec ^^^ xorBytes es ^^^ ek = 0x00#8 then
            .frame (c ^^^ ec) (lengthByte ps) (List.zipWith (· ^^^ ·) ps es)
          else .chkErr (c ^^^ ec) (lengthByte ps)])) ∧
    (∀ qs : List Byte, List.Perm qs ps →
      ∃ t : State, feedAll (frameWithChecksum (checksum c ps) c qs) s = some (t, [.frame c (lengthByte ps) qs]))

/-- Bounded return to WaitStart (spec/40_frame_decode.md R97, the spec's own derivation): within the bound of the phase,
whatever the bytes; and from ReadLength a length byte 0xFF reaches the bound. -/
def Obligations.ReturnsToWaitStartInBoundedBytes : Prop :=
  (∀ (s : State) (bs : List Byte), Inv s → s.resValid = false → bs.length = returnBound s →
    ∃ (k : Nat) (t : State) (rs : List Result), k ≤ bs.length ∧ feedAll (bs.take k) s = some (t, rs) ∧
      t.phase = 0b000#3) ∧
  (∀ s : State, returnBound s ≤ 257) ∧
  (∀ (s : State) (bs : List Byte), s.phase = 0b001#3 → s.resValid = false → bs.length = 256 →
    ∀ (k : Nat) (t : State) (rs : List Result), k < 257 → feedAll ((0xFF#8 :: bs).take k) s = some (t, rs) →
      t.phase ≠ 0b000#3)

/-- Resynchronisation (spec/40_frame_decode.md R98, the spec's own derivation; spec/90_conflicts.md C3): after garbage with
no 0xAA fed from WaitStart, the frame is the only result and the garbage wrote nothing into the buffer; after at least 257
such bytes from any state of the invariant, at most one result closes the frame in progress and then the frame comes; with a
0xAA in the garbage the frame can be lost. -/
def Obligations.ResynchronisesAfterMarkerFreeGarbage : Prop :=
  (∀ (g : List Byte) (c : Byte) (ps : List Byte) (s : State), 0xAA#8 ∉ g → ps.length ≤ 254 →
    s.phase = 0b000#3 → s.resValid = false →
    ∃ t : State, feedAll g s = some (s, []) ∧ feedAll (g ++ frameBytes c ps) s = some (t, [.frame c (lengthByte ps) ps])) ∧
  (∀ (g : List Byte) (c : Byte) (ps : List Byte) (s : State), 0xAA#8 ∉ g → 257 ≤ g.length → ps.length ≤ 254 →
    Inv s → s.resValid = false →
    ∃ (t u : State) (rs : List Result), rs.length ≤ 1 ∧ feedAll g s = some (u, rs) ∧
      feedAll (g ++ frameBytes c ps) s = some (t, rs ++ [.frame c (lengthByte ps) ps])) ∧
  (∀ s : State, s.phase = 0b000#3 → s.resValid = false →
    ∃ (g : List Byte) (c : Byte) (ps : List Byte) (t : State) (rs : List Result), 0xAA#8 ∈ g ∧
      feedAll (g ++ frameBytes c ps) s = some (t, rs) ∧ ∀ c' n ps', .frame c' n ps' ∉ rs)

/-- A corrupted length byte changes the framing (spec/40_frame_decode.md R99, the spec's own derivation). The frame of `ps`
arrives with the length byte `n`: 0 drops it and discards what follows; a shorter one ends it early, with one result; a
longer one takes the checksum byte as payload and reads `n - L` further bytes before its one result. -/
def Obligations.LengthByteDecidesFraming : Prop :=
  ∀ (n c k : Byte) (ps : List Byte) (s : State), ps.length ≤ 254 → s.phase = 0b000#3 → s.resValid = false →
    (n = 0x00#8 → 0xAA#8 ∉ c :: (ps ++ [k]) →
      ∃ t : State, feedAll (0xAA#8 :: n :: c :: (ps ++ [k])) s = some (t, []) ∧ t.phase = 0b000#3) ∧
    (1 ≤ n.toNat → n.toNat < ps.length + 1 →
      ∃ (t : State) (r : Result),
        feedAll ((0xAA#8 :: n :: c :: (ps ++ [k])).take (n.toNat + 3)) s = some (t, [r]) ∧ t.phase = 0b000#3 ∧
        r = (if ps[n.toNat - 1]? = some (n ^^^ c ^^^ xorBytes (ps.take (n.toNat - 1))) then
              .frame c n (ps.take (n.toNat - 1)) else .chkErr c n)) ∧
    (ps.length + 1 < n.toNat →
      ∃ t : State, feedAll (0xAA#8 :: n :: c :: (ps ++ [k])) s = some (t, []) ∧ t.phase ≠ 0b000#3 ∧
        ∀ more : List Byte, more.length = n.toNat - (ps.length + 1) →
          ∃ (u : State) (r : Result), feedAll (0xAA#8 :: n :: c :: (ps ++ [k] ++ more)) s = some (u, [r]) ∧
            u.phase = 0b000#3)

/-- 0xAA is a start marker only in WaitStart (spec/40_frame_decode.md R93, the spec's own derivation): elsewhere it is a
length of 170, a command, a payload byte or a checksum byte, and never restarts a frame. -/
def Obligations.StartMarkerIsDataInsideFrame : Prop :=
  ∀ (s t : State) (r : Option Result), feed 0xAA#8 s = some (t, r) →
    (s.phase = 0b001#3 → t.lenR.toNat = 170 ∧ t.chkR = 0xAA#8 ∧ r = none) ∧
    (s.phase = 0b010#3 → t.cmdR = 0xAA#8 ∧ t.chkR = s.chkR ^^^ 0xAA#8 ∧ r = none) ∧
    (s.phase = 0b011#3 → t.buf.read s.idxR.toNat = 0xAA#8 ∧ t.chkR = s.chkR ^^^ 0xAA#8 ∧ r = none) ∧
    (s.phase = 0b100#3 → t.phase = 0b000#3 ∧ (t.resKind = .frame ↔ s.chkR = 0xAA#8)) ∧
    (s.phase ≠ 0b000#3 → t.phase ≠ 0b001#3)

/-- The buffer's contents before a run never show in a result (spec/10_state.md R36): two runs of one program from reset
states with different buffers have the same results, whatever resets the program holds. -/
def Obligations.ResultsIgnoreInitialBuffer : Prop :=
  ∀ (es : List TxEvent) (m m' : Memory) (a a' : Byte) (ms ms' : List Stimulus),
    ∃ (t t' : State) (rs : List Result),
      runProgram es (State.resetWith m a ms) = some (t, rs) ∧
      runProgram es (State.resetWith m' a' ms') = some (t', rs)

/-- The two levels agree (spec/41_interface.md R124, the spec's own derivation): a cycle-level run without a reset, from any
legal state with no result pending, consumes bytes and accepts results; the transaction-level run of those bytes has the same
results, the last one possibly still pending, and ends in the same state once that result is accepted. -/
def Obligations.CycleRunMatchesTransactionRun : Prop :=
  ∀ (ms : List Stimulus) (s : State), s.phase.toNat ≤ 4 → s.resValid = false → (∀ m ∈ ms, m.isReset = false) →
    ∃ (t u : State) (bs : List Byte) (accepted results : List Result),
      cycleRun ms s = some (t, bs, accepted) ∧ feedAll bs s = some (u, results) ∧
      results = accepted ++ t.result.toList ∧
      u = { t with resValid := false, rdAddr := s.rdAddr }

/-- An edge consumes at most one byte or delivers at most one result, never both (spec/41_interface.md R117 and R122, the
spec's own derivations): a run has at least as many edges as bytes and results together. -/
def Obligations.EdgesBoundBytesAndResults : Prop :=
  ∀ (ms : List Stimulus) (s t : State) (bs : List Byte) (rs : List Result),
    cycleRun ms s = some (t, bs, rs) → bs.length + rs.length ≤ (ms.filter Stimulus.isEdge).length

/-- A reset in the middle of a program (spec/70_reset_and_hazards.md R164, the spec's own derivation): what follows runs
from the reset state with the buffer carried over, and the partial frame before it gives no result. -/
def Obligations.ResetStartsNewRun : Prop :=
  ∀ (es es' : List TxEvent) (s t u : State) (rs rs' : List Result),
    runProgram es s = some (t, rs) → runProgram es' (State.resetWith t.buf t.rdAddr t.pending) = some (u, rs') →
    runProgram (es ++ .reset :: es') s = some (u, rs ++ rs')

/-! ### Interface, buffer and instances -/

/-- The wire frame (spec/30_encoding.md R60, R62, R63): marker, length, command, payload, checksum at their offsets, the
length counting command and payload. -/
def Obligations.WireFrameLayout : Prop :=
  ∀ (c : Byte) (ps : List Byte), ps.length ≤ 254 →
    (frameBytes c ps)[0]? = some 0xAA#8 ∧
    (∃ n : Byte, (frameBytes c ps)[1]? = some n ∧ n.toNat = ps.length + 1 ∧ 1 ≤ n.toNat ∧ n.toNat ≤ 255 ∧
      (frameBytes c ps)[3 + ps.length]? = some (n ^^^ c ^^^ xorBytes ps) ∧
      (frameBytes c ps).length = n.toNat + 3) ∧
    (frameBytes c ps)[2]? = some c ∧
    ∀ k, k < ps.length → (frameBytes c ps)[3 + k]? = ps[k]?

/-- A read in the cycle of a buffer write shows the old byte, and the new one after the edge; while a result is delivered no
edge writes the buffer, unless a reset comes, which does not either (spec/20_memory.md R53). -/
def Obligations.ReadInWriteCycleShowsOldByte : Prop :=
  (∀ (s : State) (e : Edge), s.phase = 0b011#3 → s.resValid = false → e.rst = false → e.inValid = true →
    s.rdAddr = s.idxR →
    ∃ t : State, react (.edge e) s = .next t ∧ s.rdData = s.buf.read s.idxR.toNat ∧ t.rdData = e.inData) ∧
  (∀ (s t : State) (m : Stimulus), s.resValid = true → react m s = .next t → t.buf = s.buf)

/-- The delivered frame (spec/20_memory.md R44, the spec's own derivation): with a FRAME result, `res_cmd`, `res_len` and
the slice read through the port are the result's fields; without a result nothing is delivered; with CHKERR no payload. -/
def Obligations.DeliveredSliceReadsBuffer : Prop :=
  ∀ s : State,
    (s.resValid = true → s.resKind = .frame → ∃ ps : List Byte,
      s.result = some (.frame s.resCmd s.resLen ps) ∧ ps.length = s.resLen.toNat - 1 ∧
      ∀ (a : Byte) (h : a.toNat < ps.length) (t : State), exec (.payloadRead a) s = .next t → t.rdData = ps[a.toNat]) ∧
    (s.resValid = true → s.resKind = .chkErr → s.result = some (.chkErr s.resCmd s.resLen)) ∧
    (s.resValid = false → s.result = none)

/-- Instances are independent (spec/60_exceptions.md R144): a step of one always completes, changes no other, and steps of
two instances commute. -/
def Obligations.InstancesAreIndependent : Prop :=
  ∀ (n : Nat) (σ : System n) (k : Fin n),
    ∃ τ : System n, stepInstance k σ = .next τ ∧ step σ[k] = .next τ[k] ∧ (∀ j : Fin n, j ≠ k → τ[j] = σ[j]) ∧
      ∀ (j : Fin n) (υ : System n), j ≠ k → stepInstance j σ = .next υ →
        ∃ ω : System n, stepInstance j τ = .next ω ∧ stepInstance k υ = .next ω

/-- After a length byte of 0x00 the rest of the frame is parsed in WaitStart, where the first 0xAA among its bytes starts a
spurious frame (spec/40_frame_decode.md R99, the spec's own derivation). -/
def Obligations.MarkerAfterZeroLengthStartsFrame : Prop :=
  ∀ (before : List Byte) (s : State), 0xAA#8 ∉ before → s.phase = 0b000#3 → s.resValid = false →
    feedAll (0xAA#8 :: 0x00#8 :: (before ++ [0xAA#8])) s =
      some ({ s with lenR := 0x00#8, chkR := 0x00#8, idxR := 0x00#8, phase := 0b001#3 }, [])
end

