-- ==== Sys2Proof/Laws/Decode.lean ====
section
/-! SUPPORT. What the decoder answers, phase by phase, as plain case distinctions: these are cited instead of the rows. -/

namespace Sys2Proof

theorem phaseLegal_code (p : Phase) : phaseLegal p.code = true := by cases p <;> rfl

theorem ofCode_code (p : Phase) : Phase.ofCode p.code = some p := by cases p <;> rfl

theorem code_injective {p q : Phase} (h : p.code = q.code) : p = q := by
  revert h; cases p <;> cases q <;> decide

@[simp] theorem code_inj {p q : Phase} : p.code = q.code ↔ p = q := ⟨code_injective, fun h => h ▸ rfl⟩

/-- A legal code is the code of a phase. -/
theorem exists_code_of_legal : ∀ {c : BitVec 3}, phaseLegal c = true → ∃ p : Phase, c = p.code := by
  intro c h
  have key : ∀ c : BitVec 3, phaseLegal c = true →
      c = 0b000#3 ∨ c = 0b001#3 ∨ c = 0b010#3 ∨ c = 0b011#3 ∨ c = 0b100#3 := by decide
  rcases key c h with rfl | rfl | rfl | rfl | rfl
  · exact ⟨.waitStart, rfl⟩
  · exact ⟨.readLength, rfl⟩
  · exact ⟨.readCommand, rfl⟩
  · exact ⟨.readPayload, rfl⟩
  · exact ⟨.readChecksum, rfl⟩

theorem phaseLegal_iff (c : BitVec 3) : phaseLegal c = true ↔ ∃ p : Phase, c = p.code :=
  ⟨exists_code_of_legal, fun ⟨p, h⟩ => h ▸ phaseLegal_code p⟩

@[simp] theorem byteField_byteWord (c : BitVec 3) (b : Byte) : byteField (byteWord c b) = b := by
  revert c b; decide

/-- Every word is a phase field and a byte. -/
theorem exists_byteWord (W : BitVec 11) : ∃ c b, W = byteWord c b := by
  refine ⟨W.extractLsb' 8 3, W.setWidth 8, ?_⟩
  revert W; decide

theorem byteWord_injective {c c' : BitVec 3} {b b' : Byte} (h : byteWord c b = byteWord c' b') : c = c' ∧ b = b' := by
  have hb : b = b' := by simpa using congrArg byteField h
  have hf : ∀ (c : BitVec 3) (b : Byte), (byteWord c b).extractLsb' 8 3 = c := by decide
  exact ⟨by simpa [hf] using congrArg (fun W => W.extractLsb' 8 3) h, hb⟩

/-! The mask tests of the rows on a phase field and a byte, each over all words. -/

theorem mask_waitStart : ∀ (c : BitVec 3) (b : Byte), (byteWord c b &&& 0x700#11 == 0x000#11) = (c == 0b000#3) := by decide

theorem mask_readLength : ∀ (c : BitVec 3) (b : Byte), (byteWord c b &&& 0x700#11 == 0x100#11) = (c == 0b001#3) := by decide

theorem mask_readCommand : ∀ (c : BitVec 3) (b : Byte), (byteWord c b &&& 0x700#11 == 0x200#11) = (c == 0b010#3) := by decide

theorem mask_readPayload : ∀ (c : BitVec 3) (b : Byte), (byteWord c b &&& 0x700#11 == 0x300#11) = (c == 0b011#3) := by decide

theorem mask_readChecksum : ∀ (c : BitVec 3) (b : Byte), (byteWord c b &&& 0x700#11 == 0x400#11) = (c == 0b100#3) := by decide

theorem mask_startMarker : ∀ (c : BitVec 3) (b : Byte),
    (byteWord c b &&& 0x7FF#11 == 0x0AA#11) = (c == 0b000#3 && b == Config.startMarker) := by decide

theorem mask_zeroLength : ∀ (c : BitVec 3) (b : Byte),
    (byteWord c b &&& 0x7FF#11 == 0x100#11) = (c == 0b001#3 && b == 0x00#8) := by decide

/-- The decoder on a phase field and a byte, as one case distinction. -/
theorem decode_byteWord (c : BitVec 3) (b : Byte) (g : Guards) : decode (.byteOp (byteWord c b)) g =
    if c = 0b000#3 then .ok (if b = Config.startMarker then .wsStart else .wsDiscard b)
    else if c = 0b001#3 then .ok (if b = 0x00#8 then .rlZero else .rlLen b)
    else if c = 0b010#3 then .ok (if g.lenR = 1#8 then .rcLast b else .rcMore b)
    else if c = 0b011#3 then .ok (if lastPayloadByte g = true then .rpLast b else .rpMore b)
    else if c = 0b100#3 then .ok (if b = g.chkR then .rkMatch b else .rkMismatch b)
    else .error .illegalPhase := by
  have hc : ∀ c : BitVec 3, c = 0b000#3 ∨ c = 0b001#3 ∨ c = 0b010#3 ∨ c = 0b011#3 ∨ c = 0b100#3 ∨
      c = 0b101#3 ∨ c = 0b110#3 ∨ c = 0b111#3 := by decide
  rcases hc c with rfl | rfl | rfl | rfl | rfl | rfl | rfl | rfl <;>
    simp only [decode, decodeByteOp, byteRows, ByteRow.accepts, List.find?, byteField_byteWord, mask_waitStart,
      mask_readLength, mask_readCommand, mask_readPayload, mask_readChecksum, mask_startMarker, mask_zeroLength]
  · by_cases h : b = Config.startMarker
    · simp [h]
    · simp [h, bne, beq_eq_false_iff_ne.mpr h]
  · by_cases h : b = 0x00#8
    · simp [h]
    · simp [h, bne, beq_eq_false_iff_ne.mpr h]
  · by_cases h : g.lenR = 1#8
    · simp [h]
    · simp [h, bne, beq_eq_false_iff_ne.mpr h]
  · cases h : lastPayloadByte g <;> simp
  · by_cases h : b = g.chkR
    · simp [h]
    · simp [h, bne, beq_eq_false_iff_ne.mpr h]
  · simp
  · simp
  · simp

theorem decode_waitStart (b : Byte) (g : Guards) : decode (.byteOp (byteWord Phase.waitStart.code b)) g =
    .ok (if b = Config.startMarker then .wsStart else .wsDiscard b) := decode_byteWord _ b g

theorem decode_readLength (b : Byte) (g : Guards) : decode (.byteOp (byteWord Phase.readLength.code b)) g =
    .ok (if b = 0x00#8 then .rlZero else .rlLen b) := decode_byteWord _ b g

theorem decode_readCommand (b : Byte) (g : Guards) : decode (.byteOp (byteWord Phase.readCommand.code b)) g =
    .ok (if g.lenR = 1#8 then .rcLast b else .rcMore b) := decode_byteWord _ b g

theorem decode_readPayload (b : Byte) (g : Guards) : decode (.byteOp (byteWord Phase.readPayload.code b)) g =
    .ok (if lastPayloadByte g = true then .rpLast b else .rpMore b) := decode_byteWord _ b g

theorem decode_readChecksum (b : Byte) (g : Guards) : decode (.byteOp (byteWord Phase.readChecksum.code b)) g =
    .ok (if b = g.chkR then .rkMatch b else .rkMismatch b) := decode_byteWord _ b g

/-- The decoder on a port vector. -/
theorem decode_portWord (r i o : Bool) (g : Guards) : decode (.port (portWord r i o)) g =
    if r then .ok (.reset i o)
    else if i then .error (if o then .bothTransfers else .byteTransfer)
    else .ok (if o then .accept else .idle) := by
  revert r i o; simp only [decode]; decide

/-- Every port vector is three signals. -/
theorem exists_portWord : ∀ P : BitVec 3, ∃ r i o, P = portWord r i o := by decide

end Sys2Proof
end

