-- ==== Sys2Proof/Laws/Memory.lean ====
section
/-! SUPPORT. The laws of the payload buffer: a read after a write, the frame of a write, the canonical form is kept, and
canonical buffers that read alike are equal. -/

namespace Sys2Proof.Machine.Memory

@[simp] theorem read_nil (a : Nat) : read [] a = unwritten := rfl

theorem read_cons (c : Host.Cell) (m : Memory) (a : Nat) : read (c :: m) a = if c.1 = a then c.2 else read m a := rfl

theorem read_without_same (m : Memory) (a : Nat) : (without m a).read a = unwritten := by
  induction m with
  | nil => rfl
  | cons c m ih =>
    by_cases h : c.1 = a
    · simpa [without, h] using ih
    · simpa [without, h, read_cons] using ih

theorem read_without_other (m : Memory) {a a' : Nat} (h : a' ≠ a) : (without m a).read a' = m.read a' := by
  induction m with
  | nil => rfl
  | cons c m ih =>
    by_cases hc : c.1 = a
    · simpa [without, hc, read_cons, Ne.symm h] using ih
    · simp only [without, bne_iff_ne, ne_eq, hc, not_false_eq_true, List.filter_cons_of_pos, read_cons]
      simp only [without] at ih
      rw [ih]

theorem read_place_other (m : Memory) {a a' : Nat} (b : Byte) (h : a' ≠ a) : (place m a b).read a' = m.read a' := by
  induction m with
  | nil => simp [place, read_cons, Ne.symm h]
  | cons c m ih =>
    simp only [place]
    split
    · simp [read_cons, Ne.symm h]
    · simp [read_cons, ih]

/-- An entry placed where none stands is read back. -/
theorem read_place_same (m : Memory) (a : Nat) (b : Byte) (h : ∀ c ∈ m, c.1 ≠ a) : (place m a b).read a = b := by
  induction m with
  | nil => simp [place, read_cons]
  | cons c m ih =>
    simp only [place]
    split
    · simp [read_cons]
    · rw [read_cons, if_neg (h c (by simp)), ih fun d hd => h d (by simp [hd])]

theorem ne_of_mem_without {m : Memory} {a : Nat} {c : Host.Cell} (h : c ∈ without m a) : c.1 ≠ a := by
  simpa using (List.mem_filter.mp h).2

/-- A read after a write to the same entry gives the byte written (spec/20_memory.md R41, R43). -/
@[simp] theorem read_write_same (m : Memory) (a : Nat) (b : Byte) : (write m a b).read a = b := by
  unfold write
  split
  · rename_i h
    rw [read_without_same, h]
  · exact read_place_same _ _ _ fun c hc => ne_of_mem_without hc

/-- A write leaves every other entry alone (spec/20_memory.md R50). -/
theorem read_write_other (m : Memory) {a a' : Nat} (b : Byte) (h : a' ≠ a) : (write m a b).read a' = m.read a' := by
  unfold write
  split
  · exact read_without_other m h
  · rw [read_place_other _ _ h, read_without_other m h]

theorem wf_nil : wf [] := by simp [wf]

theorem wf_without {m : Memory} (a : Nat) (h : m.wf) : (without m a).wf :=
  ⟨h.1.filter _, fun c hc => h.2 c (List.mem_filter.mp hc).1⟩

theorem mem_place {m : Memory} {a : Nat} {b : Byte} {c : Host.Cell} (h : c ∈ place m a b) : c = (a, b) ∨ c ∈ m := by
  induction m with
  | nil => simpa [place] using h
  | cons d m ih =>
    simp only [place] at h
    split at h
    · simpa using h
    · rcases List.mem_cons.mp h with h | h
      · simp [h]
      · rcases ih h with h | h <;> simp [h]

theorem wf_place {m : Memory} {a : Nat} {b : Byte} (h : m.wf) (ha : ∀ c ∈ m, c.1 ≠ a) (hlt : a < Config.bufDepth)
    (hb : b ≠ unwritten) : (place m a b).wf := by
  refine ⟨?_, fun c hc => ?_⟩
  · have hp := h.1
    clear h
    induction m with
    | nil => simp [place]
    | cons d m ih =>
      obtain ⟨hd, hm⟩ := List.pairwise_cons.mp hp
      simp only [place]
      split
      · rename_i had
        refine List.pairwise_cons.mpr ⟨fun c hc => ?_, hp⟩
        rcases List.mem_cons.mp hc with rfl | hc
        · exact had
        · exact had.trans (hd c hc)
      · rename_i had
        have hda : d.1 < a := lt_of_le_of_ne (not_lt.mp had) (ha d (by simp))
        refine List.pairwise_cons.mpr ⟨fun c hc => ?_, ih (fun c hc => ha c (by simp [hc])) hm⟩
        rcases mem_place hc with rfl | hc
        · exact hda
        · exact hd c hc
  · rcases mem_place hc with rfl | hc
    · exact ⟨hlt, hb⟩
    · exact h.2 c hc

/-- Every memory operation keeps the canonical form. -/
theorem wf_write {m : Memory} {a : Nat} (b : Byte) (h : m.wf) (ha : a < Config.bufDepth) : (write m a b).wf := by
  unfold write
  split
  · exact wf_without a h
  · rename_i hb
    exact wf_place (wf_without a h) (fun c hc => ne_of_mem_without hc) ha hb

theorem wf_tail {c : Host.Cell} {m : Memory} (h : wf (c :: m)) : wf m :=
  ⟨(List.pairwise_cons.mp h.1).2, fun d hd => h.2 d (by simp [hd])⟩

theorem read_of_forall_lt {m : Memory} {a : Nat} (h : ∀ c ∈ m, a < c.1) : read m a = unwritten := by
  induction m with
  | nil => rfl
  | cons c m ih =>
    rw [read_cons, if_neg (Nat.ne_of_gt (h c (by simp))), ih fun d hd => h d (by simp [hd])]

theorem read_head (c : Host.Cell) (m : Memory) : read (c :: m) c.1 = c.2 := by simp [read_cons]

/-- Canonical buffers that read alike are equal data. -/
theorem eq_of_read_eq {m m' : Memory} (h : m.wf) (h' : m'.wf) (hr : ∀ a, m.read a = m'.read a) : m = m' := by
  induction m generalizing m' with
  | nil =>
    cases m' with
    | nil => rfl
    | cons c m' =>
      have := hr c.1
      rw [read_head] at this
      exact absurd this.symm (h'.2 c (by simp)).2
  | cons c m ih =>
    cases m' with
    | nil =>
      have := hr c.1
      rw [read_head] at this
      exact absurd this (h.2 c (by simp)).2
    | cons d m' =>
      obtain ⟨hc, _⟩ := List.pairwise_cons.mp h.1
      obtain ⟨hd, _⟩ := List.pairwise_cons.mp h'.1
      have key : ∀ {c d : Host.Cell} {m m' : Memory}, wf (c :: m) → (∀ e ∈ m', d.1 < e.1) →
          (∀ a, read (c :: m) a = read (d :: m') a) → ¬ c.1 < d.1 := by
        intro c d m m' hw hd hr hlt
        have hrc := hr c.1
        rw [read_head, read_of_forall_lt (m := d :: m')] at hrc
        · exact (hw.2 c (by simp)).2 hrc
        · intro e he
          rcases List.mem_cons.mp he with rfl | he
          · exact hlt
          · exact hlt.trans (hd e he)
      have h₁ := key h hd hr
      have h₂ := key h' hc fun a => (hr a).symm
      have hcd : c.1 = d.1 := by omega
      have hc2 : c.2 = d.2 := by
        have := hr c.1
        rwa [read_head, hcd, read_head] at this
      have hcd' : c = d := Prod.ext hcd hc2
      subst hcd'
      congr 1
      refine ih (wf_tail h) (wf_tail h') fun a => ?_
      by_cases ha : c.1 = a
      · subst ha
        rw [read_of_forall_lt hc, read_of_forall_lt hd]
      · have := hr a
        rwa [read_cons, read_cons, if_neg ha, if_neg ha] at this

end Sys2Proof.Machine.Memory
end

