-- ==== Sys2Proof/Laws/State.lean ====
section
/-! SUPPORT. One lemma for each field after each update of the state, all by unfolding once; and what the views of a state
(`guards`, `readyIn`, `payload`, `result`) read. -/

namespace Sys2Proof.Machine

variable (s : State)

@[simp] theorem goto_phase (p : Phase) : (s.goto p).phase = p.code := rfl
@[simp] theorem goto_lenR (p : Phase) : (s.goto p).lenR = s.lenR := rfl
@[simp] theorem goto_cmdR (p : Phase) : (s.goto p).cmdR = s.cmdR := rfl
@[simp] theorem goto_chkR (p : Phase) : (s.goto p).chkR = s.chkR := rfl
@[simp] theorem goto_idxR (p : Phase) : (s.goto p).idxR = s.idxR := rfl
@[simp] theorem goto_buf (p : Phase) : (s.goto p).buf = s.buf := rfl
@[simp] theorem goto_resValid (p : Phase) : (s.goto p).resValid = s.resValid := rfl
@[simp] theorem goto_resKind (p : Phase) : (s.goto p).resKind = s.resKind := rfl
@[simp] theorem goto_rdAddr (p : Phase) : (s.goto p).rdAddr = s.rdAddr := rfl
@[simp] theorem goto_pending (p : Phase) : (s.goto p).pending = s.pending := rfl

@[simp] theorem clearIndex_phase : (s.clearIndex).phase = s.phase := rfl
@[simp] theorem clearIndex_lenR : (s.clearIndex).lenR = s.lenR := rfl
@[simp] theorem clearIndex_cmdR : (s.clearIndex).cmdR = s.cmdR := rfl
@[simp] theorem clearIndex_chkR : (s.clearIndex).chkR = s.chkR := rfl
@[simp] theorem clearIndex_idxR : (s.clearIndex).idxR = 0x00#8 := rfl
@[simp] theorem clearIndex_buf : (s.clearIndex).buf = s.buf := rfl
@[simp] theorem clearIndex_resValid : (s.clearIndex).resValid = s.resValid := rfl
@[simp] theorem clearIndex_resKind : (s.clearIndex).resKind = s.resKind := rfl
@[simp] theorem clearIndex_rdAddr : (s.clearIndex).rdAddr = s.rdAddr := rfl
@[simp] theorem clearIndex_pending : (s.clearIndex).pending = s.pending := rfl

@[simp] theorem loadLength_phase (b : Byte) : (s.loadLength b).phase = s.phase := rfl
@[simp] theorem loadLength_lenR (b : Byte) : (s.loadLength b).lenR = b := rfl
@[simp] theorem loadLength_cmdR (b : Byte) : (s.loadLength b).cmdR = s.cmdR := rfl
@[simp] theorem loadLength_chkR (b : Byte) : (s.loadLength b).chkR = b := rfl
@[simp] theorem loadLength_idxR (b : Byte) : (s.loadLength b).idxR = s.idxR := rfl
@[simp] theorem loadLength_buf (b : Byte) : (s.loadLength b).buf = s.buf := rfl
@[simp] theorem loadLength_resValid (b : Byte) : (s.loadLength b).resValid = s.resValid := rfl
@[simp] theorem loadLength_resKind (b : Byte) : (s.loadLength b).resKind = s.resKind := rfl
@[simp] theorem loadLength_rdAddr (b : Byte) : (s.loadLength b).rdAddr = s.rdAddr := rfl
@[simp] theorem loadLength_pending (b : Byte) : (s.loadLength b).pending = s.pending := rfl

@[simp] theorem loadCommand_phase (b : Byte) : (s.loadCommand b).phase = s.phase := rfl
@[simp] theorem loadCommand_lenR (b : Byte) : (s.loadCommand b).lenR = s.lenR := rfl
@[simp] theorem loadCommand_cmdR (b : Byte) : (s.loadCommand b).cmdR = b := rfl
@[simp] theorem loadCommand_chkR (b : Byte) : (s.loadCommand b).chkR = s.chkR ^^^ b := rfl
@[simp] theorem loadCommand_idxR (b : Byte) : (s.loadCommand b).idxR = 0x00#8 := rfl
@[simp] theorem loadCommand_buf (b : Byte) : (s.loadCommand b).buf = s.buf := rfl
@[simp] theorem loadCommand_resValid (b : Byte) : (s.loadCommand b).resValid = s.resValid := rfl
@[simp] theorem loadCommand_resKind (b : Byte) : (s.loadCommand b).resKind = s.resKind := rfl
@[simp] theorem loadCommand_rdAddr (b : Byte) : (s.loadCommand b).rdAddr = s.rdAddr := rfl
@[simp] theorem loadCommand_pending (b : Byte) : (s.loadCommand b).pending = s.pending := rfl

@[simp] theorem storePayload_phase (b : Byte) : (s.storePayload b).phase = s.phase := rfl
@[simp] theorem storePayload_lenR (b : Byte) : (s.storePayload b).lenR = s.lenR := rfl
@[simp] theorem storePayload_cmdR (b : Byte) : (s.storePayload b).cmdR = s.cmdR := rfl
@[simp] theorem storePayload_chkR (b : Byte) : (s.storePayload b).chkR = s.chkR ^^^ b := rfl
@[simp] theorem storePayload_idxR (b : Byte) : (s.storePayload b).idxR = s.idxR + 1#8 := rfl
@[simp] theorem storePayload_buf (b : Byte) : (s.storePayload b).buf = s.buf.write s.idxR.toNat b := rfl
@[simp] theorem storePayload_resValid (b : Byte) : (s.storePayload b).resValid = s.resValid := rfl
@[simp] theorem storePayload_resKind (b : Byte) : (s.storePayload b).resKind = s.resKind := rfl
@[simp] theorem storePayload_rdAddr (b : Byte) : (s.storePayload b).rdAddr = s.rdAddr := rfl
@[simp] theorem storePayload_pending (b : Byte) : (s.storePayload b).pending = s.pending := rfl

@[simp] theorem setResult_phase (k : ResultKind) : (s.setResult k).phase = s.phase := rfl
@[simp] theorem setResult_lenR (k : ResultKind) : (s.setResult k).lenR = s.lenR := rfl
@[simp] theorem setResult_cmdR (k : ResultKind) : (s.setResult k).cmdR = s.cmdR := rfl
@[simp] theorem setResult_chkR (k : ResultKind) : (s.setResult k).chkR = s.chkR := rfl
@[simp] theorem setResult_idxR (k : ResultKind) : (s.setResult k).idxR = s.idxR := rfl
@[simp] theorem setResult_buf (k : ResultKind) : (s.setResult k).buf = s.buf := rfl
@[simp] theorem setResult_resValid (k : ResultKind) : (s.setResult k).resValid = true := rfl
@[simp] theorem setResult_resKind (k : ResultKind) : (s.setResult k).resKind = k := rfl
@[simp] theorem setResult_rdAddr (k : ResultKind) : (s.setResult k).rdAddr = s.rdAddr := rfl
@[simp] theorem setResult_pending (k : ResultKind) : (s.setResult k).pending = s.pending := rfl

@[simp] theorem clearResult_phase : (s.clearResult).phase = s.phase := rfl
@[simp] theorem clearResult_lenR : (s.clearResult).lenR = s.lenR := rfl
@[simp] theorem clearResult_cmdR : (s.clearResult).cmdR = s.cmdR := rfl
@[simp] theorem clearResult_chkR : (s.clearResult).chkR = s.chkR := rfl
@[simp] theorem clearResult_idxR : (s.clearResult).idxR = s.idxR := rfl
@[simp] theorem clearResult_buf : (s.clearResult).buf = s.buf := rfl
@[simp] theorem clearResult_resValid : (s.clearResult).resValid = false := rfl
@[simp] theorem clearResult_resKind : (s.clearResult).resKind = s.resKind := rfl
@[simp] theorem clearResult_rdAddr : (s.clearResult).rdAddr = s.rdAddr := rfl
@[simp] theorem clearResult_pending : (s.clearResult).pending = s.pending := rfl

@[simp] theorem driveReadAddress_phase (a : Byte) : (s.driveReadAddress a).phase = s.phase := rfl
@[simp] theorem driveReadAddress_lenR (a : Byte) : (s.driveReadAddress a).lenR = s.lenR := rfl
@[simp] theorem driveReadAddress_cmdR (a : Byte) : (s.driveReadAddress a).cmdR = s.cmdR := rfl
@[simp] theorem driveReadAddress_chkR (a : Byte) : (s.driveReadAddress a).chkR = s.chkR := rfl
@[simp] theorem driveReadAddress_idxR (a : Byte) : (s.driveReadAddress a).idxR = s.idxR := rfl
@[simp] theorem driveReadAddress_buf (a : Byte) : (s.driveReadAddress a).buf = s.buf := rfl
@[simp] theorem driveReadAddress_resValid (a : Byte) : (s.driveReadAddress a).resValid = s.resValid := rfl
@[simp] theorem driveReadAddress_resKind (a : Byte) : (s.driveReadAddress a).resKind = s.resKind := rfl
@[simp] theorem driveReadAddress_rdAddr (a : Byte) : (s.driveReadAddress a).rdAddr = a := rfl
@[simp] theorem driveReadAddress_pending (a : Byte) : (s.driveReadAddress a).pending = s.pending := rfl

@[simp] theorem popStimulus_phase : (s.popStimulus).phase = s.phase := rfl
@[simp] theorem popStimulus_lenR : (s.popStimulus).lenR = s.lenR := rfl
@[simp] theorem popStimulus_cmdR : (s.popStimulus).cmdR = s.cmdR := rfl
@[simp] theorem popStimulus_chkR : (s.popStimulus).chkR = s.chkR := rfl
@[simp] theorem popStimulus_idxR : (s.popStimulus).idxR = s.idxR := rfl
@[simp] theorem popStimulus_buf : (s.popStimulus).buf = s.buf := rfl
@[simp] theorem popStimulus_resValid : (s.popStimulus).resValid = s.resValid := rfl
@[simp] theorem popStimulus_resKind : (s.popStimulus).resKind = s.resKind := rfl
@[simp] theorem popStimulus_rdAddr : (s.popStimulus).rdAddr = s.rdAddr := rfl
@[simp] theorem popStimulus_pending : (s.popStimulus).pending = s.pending.tail := rfl

@[simp] theorem pushStimulus_phase (m : Stimulus) : (s.pushStimulus m).phase = s.phase := rfl
@[simp] theorem pushStimulus_lenR (m : Stimulus) : (s.pushStimulus m).lenR = s.lenR := rfl
@[simp] theorem pushStimulus_cmdR (m : Stimulus) : (s.pushStimulus m).cmdR = s.cmdR := rfl
@[simp] theorem pushStimulus_chkR (m : Stimulus) : (s.pushStimulus m).chkR = s.chkR := rfl
@[simp] theorem pushStimulus_idxR (m : Stimulus) : (s.pushStimulus m).idxR = s.idxR := rfl
@[simp] theorem pushStimulus_buf (m : Stimulus) : (s.pushStimulus m).buf = s.buf := rfl
@[simp] theorem pushStimulus_resValid (m : Stimulus) : (s.pushStimulus m).resValid = s.resValid := rfl
@[simp] theorem pushStimulus_resKind (m : Stimulus) : (s.pushStimulus m).resKind = s.resKind := rfl
@[simp] theorem pushStimulus_rdAddr (m : Stimulus) : (s.pushStimulus m).rdAddr = s.rdAddr := rfl
@[simp] theorem pushStimulus_pending (m : Stimulus) : (s.pushStimulus m).pending = m :: s.pending := rfl

@[simp] theorem resetRegisters_phase : (s.resetRegisters).phase = Phase.waitStart.code := rfl
@[simp] theorem resetRegisters_lenR : (s.resetRegisters).lenR = 0x00#8 := rfl
@[simp] theorem resetRegisters_cmdR : (s.resetRegisters).cmdR = 0x00#8 := rfl
@[simp] theorem resetRegisters_chkR : (s.resetRegisters).chkR = 0x00#8 := rfl
@[simp] theorem resetRegisters_idxR : (s.resetRegisters).idxR = 0x00#8 := rfl
@[simp] theorem resetRegisters_buf : (s.resetRegisters).buf = s.buf := rfl
@[simp] theorem resetRegisters_resValid : (s.resetRegisters).resValid = false := rfl
@[simp] theorem resetRegisters_resKind : (s.resetRegisters).resKind = .frame := rfl
@[simp] theorem resetRegisters_rdAddr : (s.resetRegisters).rdAddr = s.rdAddr := rfl
@[simp] theorem resetRegisters_pending : (s.resetRegisters).pending = s.pending := rfl

@[simp] theorem resetWith_phase (m : Memory) (a : Byte) (ms : List Stimulus) : (State.resetWith m a ms).phase = Phase.waitStart.code := rfl
@[simp] theorem resetWith_lenR (m : Memory) (a : Byte) (ms : List Stimulus) : (State.resetWith m a ms).lenR = 0x00#8 := rfl
@[simp] theorem resetWith_cmdR (m : Memory) (a : Byte) (ms : List Stimulus) : (State.resetWith m a ms).cmdR = 0x00#8 := rfl
@[simp] theorem resetWith_chkR (m : Memory) (a : Byte) (ms : List Stimulus) : (State.resetWith m a ms).chkR = 0x00#8 := rfl
@[simp] theorem resetWith_idxR (m : Memory) (a : Byte) (ms : List Stimulus) : (State.resetWith m a ms).idxR = 0x00#8 := rfl
@[simp] theorem resetWith_buf (m : Memory) (a : Byte) (ms : List Stimulus) : (State.resetWith m a ms).buf = m := rfl
@[simp] theorem resetWith_resValid (m : Memory) (a : Byte) (ms : List Stimulus) : (State.resetWith m a ms).resValid = false := rfl
@[simp] theorem resetWith_resKind (m : Memory) (a : Byte) (ms : List Stimulus) : (State.resetWith m a ms).resKind = .frame := rfl
@[simp] theorem resetWith_rdAddr (m : Memory) (a : Byte) (ms : List Stimulus) : (State.resetWith m a ms).rdAddr = a := rfl
@[simp] theorem resetWith_pending (m : Memory) (a : Byte) (ms : List Stimulus) : (State.resetWith m a ms).pending = ms := rfl

/-- Two states with the same fields are the same state. -/
theorem State.ext_fields {s t : State} (h₁ : s.phase = t.phase) (h₂ : s.lenR = t.lenR) (h₃ : s.cmdR = t.cmdR)
    (h₄ : s.chkR = t.chkR) (h₅ : s.idxR = t.idxR) (h₆ : s.buf = t.buf) (h₇ : s.resValid = t.resValid)
    (h₈ : s.resKind = t.resKind) (h₉ : s.rdAddr = t.rdAddr) (h₁₀ : s.pending = t.pending) : s = t := by
  cases s; cases t; simp_all

theorem takeFramingError_zeroLength : s.takeFramingError .zeroLength = s.goto .waitStart := rfl

theorem takeFramingError_checksumMismatch :
    s.takeFramingError .checksumMismatch = (s.goto .waitStart).setResult .chkErr := rfl

theorem recoverPhase_of_legal {s : State} (h : phaseLegal s.phase = true) : s.recoverPhase = s := by
  simp [State.recoverPhase, h]

theorem recoverPhase_of_illegal {s : State} (h : phaseLegal s.phase = false) : s.recoverPhase = s.goto .waitStart := by
  simp [State.recoverPhase, h]

/-- Clearing a result that does not wait changes nothing (spec/41_interface.md R116). -/
theorem clearResult_of_none {s : State} (h : s.resValid = false) : s.clearResult = s :=
  State.ext_fields rfl rfl rfl rfl rfl rfl h.symm rfl rfl rfl

theorem guards_eq : s.guards = ⟨s.lenR, s.idxR, s.chkR⟩ := rfl

theorem lastPayloadByte_guards : lastPayloadByte s.guards = (s.idxR.toNat + 2 == s.lenR.toNat) := rfl

/-- The exact sum of the guard agrees with the 9-bit comparison of spec/30_encoding.md R65. -/
theorem lastPayloadByte_eq_nineBits (g : Guards) :
    lastPayloadByte g = (g.idxR.setWidth 9 + 2#9 == g.lenR.setWidth 9) := by
  have h₁ := g.idxR.isLt
  have h₂ := g.lenR.isLt
  rw [lastPayloadByte, Bool.eq_iff_iff]
  simp only [beq_iff_eq, ← BitVec.toNat_inj, BitVec.toNat_add, BitVec.toNat_setWidth, BitVec.toNat_ofNat]
  omega

theorem readyIn_iff (p : Phase) : s.readyIn p = true ↔ s.phase = p.code ∧ s.resValid = false := by
  simp [State.readyIn]

theorem result_of_none {s : State} (h : s.resValid = false) : s.result = none := by
  simp [State.result, h]

theorem result_setResult_frame : (s.setResult .frame).result = some (.frame s.cmdR s.lenR s.payload) := rfl

theorem result_setResult_chkErr : (s.setResult .chkErr).result = some (.chkErr s.cmdR s.lenR) := rfl

theorem result_isSome : s.result.isSome = s.resValid := by
  cases h : s.resValid <;> cases hk : s.resKind <;> simp [State.result, h, hk]

/-- The payload slice reads the buffer and the length only. -/
theorem payloadPrefix_congr {s t : State} {n : Nat} (h : ∀ k < n, s.buf.read k = t.buf.read k) :
    s.payloadPrefix n = t.payloadPrefix n := by
  simp only [State.payloadPrefix]
  exact List.map_congr_left fun k hk => h k (List.mem_range.mp hk)

@[simp] theorem payloadPrefix_zero : s.payloadPrefix 0 = [] := rfl

theorem payloadPrefix_succ (n : Nat) : s.payloadPrefix (n + 1) = s.payloadPrefix n ++ [s.buf.read n] := by
  simp [State.payloadPrefix, List.range_succ]

@[simp] theorem length_payloadPrefix (n : Nat) : (s.payloadPrefix n).length = n := by
  simp [State.payloadPrefix]

end Sys2Proof.Machine
end

