-- ==== Sys2Proof/Laws/Exec.lean ====
section
/-! SUPPORT. What each instruction can do: when it answers a next state, and which one. Proofs cite these and never unfold
a meaning. -/

namespace Sys2Proof.Machine

variable {s t : State} {b : Byte}

theorem whenSelected_next {c : Bool} : whenSelected c t = .next s ↔ c = true ∧ s = t := by
  cases c <;> simp [whenSelected, eq_comm]

theorem whenSelected_true {c : Bool} (h : c = true) : whenSelected c t = .next t := by simp [whenSelected, h]

theorem execWsDiscard_next : exec (.wsDiscard b) s = .next t ↔
    s.readyIn .waitStart = true ∧ b ≠ Config.startMarker ∧ t = s := by
  simp [exec, execWsDiscard, whenSelected_next, and_assoc]

theorem execWsStart_next : exec .wsStart s = .next t ↔
    s.readyIn .waitStart = true ∧ t = s.clearIndex.goto .readLength := by
  simp [exec, execWsStart, whenSelected_next]

theorem execRlZero_next : exec .rlZero s = .next t ↔
    s.readyIn .readLength = true ∧ t = (s.loadLength 0x00#8).goto .waitStart := by
  simp [exec, execRlZero, whenSelected_next, takeFramingError_zeroLength]

theorem execRlLen_next : exec (.rlLen b) s = .next t ↔
    s.readyIn .readLength = true ∧ b ≠ 0x00#8 ∧ t = (s.loadLength b).goto .readCommand := by
  simp [exec, execRlLen, whenSelected_next, and_assoc]

theorem execRcLast_next : exec (.rcLast b) s = .next t ↔
    s.readyIn .readCommand = true ∧ s.lenR = 1#8 ∧ t = (s.loadCommand b).goto .readChecksum := by
  simp [exec, execRcLast, whenSelected_next, and_assoc]

theorem execRcMore_next : exec (.rcMore b) s = .next t ↔
    s.readyIn .readCommand = true ∧ s.lenR ≠ 1#8 ∧ t = (s.loadCommand b).goto .readPayload := by
  simp [exec, execRcMore, whenSelected_next, and_assoc]

theorem execRpMore_next : exec (.rpMore b) s = .next t ↔
    s.readyIn .readPayload = true ∧ s.idxR.toNat + 2 ≠ s.lenR.toNat ∧ t = s.storePayload b := by
  simp [exec, execRpMore, whenSelected_next, and_assoc, lastPayloadByte_guards]

theorem execRpLast_next : exec (.rpLast b) s = .next t ↔
    s.readyIn .readPayload = true ∧ s.idxR.toNat + 2 = s.lenR.toNat ∧ t = (s.storePayload b).goto .readChecksum := by
  simp [exec, execRpLast, whenSelected_next, and_assoc, lastPayloadByte_guards]

theorem execRkMatch_next : exec (.rkMatch b) s = .next t ↔
    s.readyIn .readChecksum = true ∧ b = s.chkR ∧ t = (s.goto .waitStart).setResult .frame := by
  simp [exec, execRkMatch, whenSelected_next, and_assoc]

theorem execRkMismatch_next : exec (.rkMismatch b) s = .next t ↔
    s.readyIn .readChecksum = true ∧ b ≠ s.chkR ∧ t = (s.goto .waitStart).setResult .chkErr := by
  simp [exec, execRkMismatch, whenSelected_next, and_assoc, takeFramingError_checksumMismatch]

theorem execReset_eq (i o : Bool) : exec (.reset i o) s = .next s.resetRegisters := rfl

theorem execAccept_of_legal (h : phaseLegal s.phase = true) : exec .accept s = .next s.clearResult := by
  simp [exec, execAccept, h]

theorem execAccept_of_illegal (h : phaseLegal s.phase = false) : exec .accept s = .next (s.goto .waitStart) := by
  simp [exec, execAccept, h, recoverPhase_of_illegal h]

theorem execIdle_of_legal (h : phaseLegal s.phase = true) : exec .idle s = .next s := by
  simp [exec, execIdle, recoverPhase_of_legal h]

theorem execIdle_of_illegal (h : phaseLegal s.phase = false) : exec .idle s = .next (s.goto .waitStart) := by
  simp [exec, execIdle, recoverPhase_of_illegal h]

theorem execPayloadRead_eq (a : Byte) : exec (.payloadRead a) s = .next (s.driveReadAddress a) := rfl

/-- No instruction raises a fault: there is none. -/
theorem exec_ne_fault (i : Instr) (f : Fault) : exec i s ≠ .fault f := nomatch f

end Sys2Proof.Machine
end

