-- ==== Sys2Proof/Laws/React.lean ====
section
/-! SUPPORT. What the block does at a move of the environment: one lemma for each line of spec/60_exceptions.md R135, and
the step in terms of it. -/

namespace Sys2Proof.Machine

variable {s t : State} {e : Edge}

theorem inReady_iff (r : Bool) : s.inReady r = true ↔ r = false ∧ s.resValid = false ∧ phaseLegal s.phase = true := by
  simp [State.inReady, and_assoc]

theorem xferIn_iff : s.xferIn e = true ↔
    e.inValid = true ∧ e.rst = false ∧ s.resValid = false ∧ phaseLegal s.phase = true := by
  simp [State.xferIn, inReady_iff]

theorem xferOut_iff : s.xferOut e = true ↔ s.resValid = true ∧ e.resReady = true := by
  simp [State.xferOut]

theorem nextInstr_read (a : Byte) : nextInstr (.read a) s = .ok (.payloadRead a) := rfl

theorem nextInstr_reset (h : e.rst = true) : nextInstr (.edge e) s = .ok (.reset (s.xferIn e) (s.xferOut e)) := by
  simp [nextInstr, State.selectedWord, h, State.portVector, decode_portWord]

theorem nextInstr_illegal (hr : e.rst = false) (h : phaseLegal s.phase = false) : nextInstr (.edge e) s = .ok .idle := by
  simp [nextInstr, State.selectedWord, hr, h, decode_portWord]

theorem nextInstr_byte (h : s.xferIn e = true) : nextInstr (.edge e) s = decode (.byteOp (s.opWord e.inData)) s.guards := by
  obtain ⟨_, hr, _, hl⟩ := xferIn_iff.mp h
  simp [nextInstr, State.selectedWord, hr, hl, h]

theorem nextInstr_port (hr : e.rst = false) (hl : phaseLegal s.phase = true) (h : s.xferIn e = false) :
    nextInstr (.edge e) s = .ok (if s.xferOut e then .accept else .idle) := by
  simp [nextInstr, State.selectedWord, hr, hl, h, State.portVector, decode_portWord]

theorem react_of_nextInstr {m : Stimulus} {i : Instr} (h : nextInstr m s = .ok i) : react m s = exec i s := by
  simp [react, h]

theorem react_read (a : Byte) : react (.read a) s = .next (s.driveReadAddress a) := rfl

theorem react_reset (h : e.rst = true) : react (.edge e) s = .next s.resetRegisters := by
  rw [react_of_nextInstr (nextInstr_reset h), execReset_eq]

theorem react_illegal (hr : e.rst = false) (h : phaseLegal s.phase = false) :
    react (.edge e) s = .next (s.goto .waitStart) := by
  rw [react_of_nextInstr (nextInstr_illegal hr h), execIdle_of_illegal h]

theorem react_accept (hr : e.rst = false) (hl : phaseLegal s.phase = true) (h : s.xferOut e = true) :
    react (.edge e) s = .next s.clearResult := by
  have hx : s.xferIn e = false := by
    rw [← Bool.not_eq_true, xferIn_iff]
    rintro ⟨_, _, hv, _⟩
    simp [(xferOut_iff.mp h).1] at hv
  rw [react_of_nextInstr (nextInstr_port hr hl hx), if_pos h, execAccept_of_legal hl]

theorem react_idle (hr : e.rst = false) (hl : phaseLegal s.phase = true) (hi : s.xferIn e = false)
    (ho : s.xferOut e = false) : react (.edge e) s = .next s := by
  rw [react_of_nextInstr (nextInstr_port hr hl hi), ho, if_neg (by simp), execIdle_of_legal hl]

theorem step_cons {m : Stimulus} {ms : List Stimulus} (h : s.pending = m :: ms) :
    step s = react m { s with pending := ms } := by
  simp [step, State.nextStimulus, State.popStimulus, h]

theorem step_nil (h : s.pending = []) : step s = react (.edge Edge.quiet) s := by
  have : s.popStimulus = s := State.ext_fields rfl rfl rfl rfl rfl rfl rfl rfl rfl (by simp [h])
  simp [step, State.nextStimulus, h, this]

end Sys2Proof.Machine
end

