-- ==== Sys2Proof/Laws/Feed.lean ====
section
/-! SUPPORT. What `feed` answers, operation by operation, and how runs of it compose. -/

namespace Sys2Proof.Machine

variable {s t : State} {b : Byte}

/-- `feed` runs the decoded operation and shows its result (spec/40_frame_decode.md R80). -/
theorem feed_of_decode {p : Phase} (h : s.readyIn p = true) {i : Instr}
    (hd : decode (.byteOp (byteWord p.code b)) s.guards = .ok i) (he : exec i s = .next t) :
    feed b s = some (t, t.result) := by
  obtain ⟨hp, hv⟩ := (readyIn_iff s p).mp h
  simp [feed, State.opWord, hp, hv, phaseLegal_code, hd, he]

theorem feed_waitStart_discard (h : s.readyIn .waitStart = true) (hb : b ≠ Config.startMarker) :
    feed b s = some (s, none) := by
  have hr := result_of_none ((readyIn_iff s _).mp h).2
  rw [feed_of_decode h (decode_waitStart b s.guards) (by rw [if_neg hb]; exact execWsDiscard_next.mpr ⟨h, hb, rfl⟩), hr]

theorem feed_waitStart_start (h : s.readyIn .waitStart = true) :
    feed Config.startMarker s = some (s.clearIndex.goto .readLength, none) := by
  have hr : (s.clearIndex.goto .readLength).result = none := result_of_none ((readyIn_iff s _).mp h).2
  rw [feed_of_decode h (decode_waitStart _ s.guards) (by rw [if_pos rfl]; exact execWsStart_next.mpr ⟨h, rfl⟩), hr]

theorem feed_readLength_zero (h : s.readyIn .readLength = true) :
    feed 0x00#8 s = some ((s.loadLength 0x00#8).goto .waitStart, none) := by
  have hr : ((s.loadLength 0x00#8).goto .waitStart).result = none := result_of_none ((readyIn_iff s _).mp h).2
  rw [feed_of_decode h (decode_readLength _ s.guards) (by rw [if_pos rfl]; exact execRlZero_next.mpr ⟨h, rfl⟩), hr]

theorem feed_readLength_len (h : s.readyIn .readLength = true) (hb : b ≠ 0x00#8) :
    feed b s = some ((s.loadLength b).goto .readCommand, none) := by
  have hr : ((s.loadLength b).goto .readCommand).result = none := result_of_none ((readyIn_iff s _).mp h).2
  rw [feed_of_decode h (decode_readLength b s.guards) (by rw [if_neg hb]; exact execRlLen_next.mpr ⟨h, hb, rfl⟩), hr]

theorem feed_readCommand_last (h : s.readyIn .readCommand = true) (hl : s.lenR = 1#8) :
    feed b s = some ((s.loadCommand b).goto .readChecksum, none) := by
  have hr : ((s.loadCommand b).goto .readChecksum).result = none := result_of_none ((readyIn_iff s _).mp h).2
  have hg : s.guards.lenR = 1#8 := hl
  rw [feed_of_decode h (decode_readCommand b s.guards) (by rw [if_pos hg]; exact execRcLast_next.mpr ⟨h, hl, rfl⟩), hr]

theorem feed_readCommand_more (h : s.readyIn .readCommand = true) (hl : s.lenR ≠ 1#8) :
    feed b s = some ((s.loadCommand b).goto .readPayload, none) := by
  have hr : ((s.loadCommand b).goto .readPayload).result = none := result_of_none ((readyIn_iff s _).mp h).2
  have hg : s.guards.lenR ≠ 1#8 := hl
  rw [feed_of_decode h (decode_readCommand b s.guards) (by rw [if_neg hg]; exact execRcMore_next.mpr ⟨h, hl, rfl⟩), hr]

theorem feed_readPayload_more (h : s.readyIn .readPayload = true) (hl : s.idxR.toNat + 2 ≠ s.lenR.toNat) :
    feed b s = some (s.storePayload b, none) := by
  have hr : (s.storePayload b).result = none := result_of_none ((readyIn_iff s _).mp h).2
  have hg : ¬ lastPayloadByte s.guards = true := by simpa [lastPayloadByte_guards] using hl
  rw [feed_of_decode h (decode_readPayload b s.guards) (by rw [if_neg hg]; exact execRpMore_next.mpr ⟨h, hl, rfl⟩), hr]

theorem feed_readPayload_last (h : s.readyIn .readPayload = true) (hl : s.idxR.toNat + 2 = s.lenR.toNat) :
    feed b s = some ((s.storePayload b).goto .readChecksum, none) := by
  have hr : ((s.storePayload b).goto .readChecksum).result = none := result_of_none ((readyIn_iff s _).mp h).2
  have hg : lastPayloadByte s.guards = true := by simpa [lastPayloadByte_guards] using hl
  rw [feed_of_decode h (decode_readPayload b s.guards) (by rw [if_pos hg]; exact execRpLast_next.mpr ⟨h, hl, rfl⟩), hr]

theorem feed_readChecksum_match (h : s.readyIn .readChecksum = true) (hb : b = s.chkR) :
    feed b s = some ((s.goto .waitStart).setResult .frame, some (.frame s.cmdR s.lenR s.payload)) := by
  have hg : b = s.guards.chkR := hb
  rw [feed_of_decode h (decode_readChecksum b s.guards) (by rw [if_pos hg]; exact execRkMatch_next.mpr ⟨h, hb, rfl⟩)]
  rfl

theorem feed_readChecksum_mismatch (h : s.readyIn .readChecksum = true) (hb : b ≠ s.chkR) :
    feed b s = some ((s.goto .waitStart).setResult .chkErr, some (.chkErr s.cmdR s.lenR)) := by
  have hg : b ≠ s.guards.chkR := hb
  rw [feed_of_decode h (decode_readChecksum b s.guards) (by rw [if_neg hg]; exact execRkMismatch_next.mpr ⟨h, hb, rfl⟩)]
  rfl

/-- A byte transfer is a `feed` (spec/41_interface.md R113), seen from the transaction level. -/
theorem react_of_feed {e : Edge} {r : Option Result} (hx : s.xferIn e = true) (hf : feed e.inData s = some (t, r)) :
    react (.edge e) s = .next t := by
  obtain ⟨_, _, hv, hl⟩ := xferIn_iff.mp hx
  simp only [feed, hv, hl, Bool.not_true, Bool.or_self, Bool.false_eq_true, if_false] at hf
  rw [react, nextInstr_byte hx]
  split at hf
  · cases hf
  · rename_i i hi
    simp only [hi]
    split at hf <;> simp_all

theorem feedAll_nil : feedAll [] s = some (s, []) := rfl

theorem feedAll_cons {r : Option Result} {bs : List Byte} (h : feed b s = some (t, r)) :
    feedAll (b :: bs) s = (feedAll bs t.clearResult).map fun x => (x.1, r.toList ++ x.2) := by
  simp only [feedAll, h]
  cases feedAll bs t.clearResult <;> rfl

/-- A run of two pieces is the first, then the second from where it ends. -/
theorem feedAll_append (bs bs' : List Byte) : feedAll (bs ++ bs') s =
    (feedAll bs s).bind fun x => (feedAll bs' x.1).map fun y => (y.1, x.2 ++ y.2) := by
  induction bs generalizing s with
  | nil =>
    simp only [List.nil_append, feedAll_nil, Option.bind_some, List.nil_append]
    cases feedAll bs' s <;> rfl
  | cons b bs ih =>
    cases h : feed b s with
    | none => simp [feedAll, h]
    | some x =>
      obtain ⟨t, r⟩ := x
      rw [List.cons_append, feedAll_cons h, feedAll_cons h, ih]
      cases feedAll bs t.clearResult with
      | none => rfl
      | some y =>
        simp only [Option.bind_some, Option.map_some]
        cases feedAll bs' y.1 with
        | none => rfl
        | some z => simp

/-- The stream notation's bytes run as `feedAll` runs them. -/
theorem runProgram_bytes (bs : List Byte) : runProgram (bs.map .byte) s = feedAll bs s := by
  induction bs generalizing s with
  | nil => rfl
  | cons b bs ih =>
    simp only [List.map_cons, runProgram, feedAll]
    split
    · rfl
    · rw [ih]

theorem xorBytes_nil : xorBytes [] = 0x00#8 := rfl

theorem xorBytes_cons (x : Byte) (xs : List Byte) : xorBytes (x :: xs) = x ^^^ xorBytes xs := rfl

theorem xorBytes_append (xs ys : List Byte) : xorBytes (xs ++ ys) = xorBytes xs ^^^ xorBytes ys := by
  induction xs with
  | nil => simp [xorBytes_nil]
  | cons x xs ih => simp [xorBytes_cons, ih, BitVec.xor_assoc]

/-- The closed form grows by the byte stored (spec/10_state.md R34). -/
theorem closedForm_succ (n : Nat) : s.closedForm (n + 1) = s.closedForm n ^^^ s.buf.read n := by
  simp [State.closedForm, payloadPrefix_succ, xorBytes_append, xorBytes_cons, xorBytes_nil, BitVec.xor_assoc]

end Sys2Proof.Machine
end

