-- ==== Sys2Proof/Laws/PerInstr.lean ====
section
/-! SUPPORT. Family `EncodingRow`: the word of every well-formed instruction has the fixed bits of its row of
spec/opcode_table.json, in the format of that row. -/

namespace Sys2Proof.Laws.EncodingRow

/-- `mask` and `match` of the instruction's row, in the row's format (spec/opcode_table.json; spec/30_encoding.md R67). -/
def row : Instr → OpWord × OpWord
  | .wsDiscard _ => (.byteOp 0x700#11, .byteOp 0x000#11)
  | .wsStart => (.byteOp 0x7FF#11, .byteOp 0x0AA#11)
  | .rlZero => (.byteOp 0x7FF#11, .byteOp 0x100#11)
  | .rlLen _ => (.byteOp 0x700#11, .byteOp 0x100#11)
  | .rcLast _ => (.byteOp 0x700#11, .byteOp 0x200#11)
  | .rcMore _ => (.byteOp 0x700#11, .byteOp 0x200#11)
  | .rpMore _ => (.byteOp 0x700#11, .byteOp 0x300#11)
  | .rpLast _ => (.byteOp 0x700#11, .byteOp 0x300#11)
  | .rkMatch _ => (.byteOp 0x700#11, .byteOp 0x400#11)
  | .rkMismatch _ => (.byteOp 0x700#11, .byteOp 0x400#11)
  | .reset _ _ => (.port 0b100#3, .port 0b100#3)
  | .accept => (.port 0b111#3, .port 0b001#3)
  | .idle => (.port 0b111#3, .port 0b000#3)
  | .payloadRead _ => (.readAddr 0x00#8, .readAddr 0x00#8)

/-- `(w & mask) == match`, with all three in one format. -/
def matchesRow : OpWord → OpWord × OpWord → Bool
  | .byteOp W, (.byteOp m, .byteOp p) => W &&& m == p
  | .port P, (.port m, .port p) => P &&& m == p
  | .readAddr a, (.readAddr m, .readAddr p) => a &&& m == p
  | _, _ => false

def Statement (i : Instr) : Prop := i.wf = true → matchesRow (encode i) (row i) = true

theorem wsDiscard (b : Byte) : Statement (.wsDiscard b) := fun _ => by
  simp [matchesRow, encode, row, mask_waitStart, Phase.code]

theorem wsStart : Statement .wsStart := fun _ => rfl

theorem rlZero : Statement .rlZero := fun _ => rfl

theorem rlLen (b : Byte) : Statement (.rlLen b) := fun _ => by
  simp [matchesRow, encode, row, mask_readLength, Phase.code]

theorem rcLast (b : Byte) : Statement (.rcLast b) := fun _ => by
  simp [matchesRow, encode, row, mask_readCommand, Phase.code]

theorem rcMore (b : Byte) : Statement (.rcMore b) := fun _ => by
  simp [matchesRow, encode, row, mask_readCommand, Phase.code]

theorem rpMore (b : Byte) : Statement (.rpMore b) := fun _ => by
  simp [matchesRow, encode, row, mask_readPayload, Phase.code]

theorem rpLast (b : Byte) : Statement (.rpLast b) := fun _ => by
  simp [matchesRow, encode, row, mask_readPayload, Phase.code]

theorem rkMatch (b : Byte) : Statement (.rkMatch b) := fun _ => by
  simp [matchesRow, encode, row, mask_readChecksum, Phase.code]

theorem rkMismatch (b : Byte) : Statement (.rkMismatch b) := fun _ => by
  simp [matchesRow, encode, row, mask_readChecksum, Phase.code]

theorem reset (i o : Bool) : Statement (.reset i o) := fun _ => by cases i <;> cases o <;> rfl

theorem accept : Statement .accept := fun _ => rfl

theorem idle : Statement .idle := fun _ => rfl

theorem payloadRead (a : Byte) : Statement (.payloadRead a) := fun _ => by simp [matchesRow, encode, row]

end Sys2Proof.Laws.EncodingRow
end

