-- ==== Sys2Proof/Tests/Slice0.lean ====
section
/-! SUPPORT. Tests and witnesses. The expected values of the one-step tests are the vectors of spec/95_test_vectors.md
(its ids are in the comments) and the words are written bit by bit from spec/30_encoding.md R66 and R67. The witnesses
show, for each obligation with hypotheses, states and operands that meet them. -/

open Sys2Proof Sys2Proof.Machine

namespace Sys2Proof.Tests

/-- The state `(phase, len_r, cmd_r, chk_r, idx_r)` of spec/95_test_vectors.md with the listed buffer. -/
def st (p : Phase) (len cmd chk idx : Byte) (buf : Memory) : State :=
  { State.resetWith buf 0x00#8 [] with phase := p.code, lenR := len, cmdR := cmd, chkR := chk, idxR := idx }

/-- The same with a result pending. -/
def stRes (k : ResultKind) (len cmd chk idx : Byte) (buf : Memory) : State :=
  (st .waitStart len cmd chk idx buf).setResult k

/-- The reset state under an illegal phase code. -/
def stBad (c : BitVec 3) : State := { State.reset with phase := c }

def nextIs (o : Host.Outcome State Fault Refusal) (t : State) : Bool :=
  match o with
  | .next u => u == t
  | .fault _ => false
  | .refused _ => false

def decodesTo (w : OpWord) (g : Guards) (i : Instr) : Bool :=
  match decode w g with
  | .ok j => j == i
  | .error _ => false

def rejectedAs (w : OpWord) (g : Guards) (e : DecodeError) : Bool :=
  match decode w g with
  | .ok _ => false
  | .error f => f == e

/-! ### Well-formedness: one ill-formed term for each check -/

theorem test_wf_refuses_discarding_the_marker : (Instr.wsDiscard 0xAA#8).wf = false := by decide

theorem test_wf_refuses_a_zero_length : (Instr.rlLen 0x00#8).wf = false := by decide

/-! ### Decoding: a word of every row, bit by bit -/

theorem test_decode_wsDiscard : decodesTo (.byteOp 0b00010101011#11) ⟨3#8, 2#8, 1#8⟩ (.wsDiscard 0xAB#8) = true := by
  decide

theorem test_decode_wsStart : decodesTo (.byteOp 0b00010101010#11) ⟨3#8, 2#8, 1#8⟩ .wsStart = true := by decide

theorem test_decode_rlZero : decodesTo (.byteOp 0b00100000000#11) ⟨3#8, 2#8, 1#8⟩ .rlZero = true := by decide

theorem test_decode_rlLen : decodesTo (.byteOp 0b00111111111#11) ⟨3#8, 2#8, 1#8⟩ (.rlLen 0xFF#8) = true := by decide

theorem test_decode_rcLast : decodesTo (.byteOp 0b01000010001#11) ⟨1#8, 0#8, 1#8⟩ (.rcLast 0x11#8) = true := by decide

theorem test_decode_rcMore : decodesTo (.byteOp 0b01010101010#11) ⟨5#8, 0#8, 5#8⟩ (.rcMore 0xAA#8) = true := by decide

theorem test_decode_rpMore : decodesTo (.byteOp 0b01100000101#11) ⟨3#8, 0#8, 2#8⟩ (.rpMore 0x05#8) = true := by decide

/-- At the largest length, where an 8-bit `idx_r + 2` would still not wrap (R65: nine bits). -/
theorem test_decode_rpLast : decodesTo (.byteOp 0b01111111101#11) ⟨0xFF#8, 0xFD#8, 0x11#8⟩ (.rpLast 0xFD#8) = true := by
  decide

/-- The guard's sum is exact: with `idx_r = 255` it is 257, not 1 (R65). -/
theorem test_decode_guard_does_not_wrap :
    decodesTo (.byteOp 0b01100000000#11) ⟨1#8, 0xFF#8, 0#8⟩ (.rpMore 0x00#8) = true := by decide

theorem test_decode_rkMatch : decodesTo (.byteOp 0b10010101010#11) ⟨1#8, 0#8, 0xAA#8⟩ (.rkMatch 0xAA#8) = true := by
  decide

theorem test_decode_rkMismatch : decodesTo (.byteOp 0b10010101010#11) ⟨1#8, 0#8, 0x10#8⟩ (.rkMismatch 0xAA#8) = true := by
  decide

theorem test_decode_reset : decodesTo (.port 0b110#3) ⟨0#8, 0#8, 0#8⟩ (.reset true false) = true := by decide

theorem test_decode_accept : decodesTo (.port 0b001#3) ⟨0#8, 0#8, 0#8⟩ .accept = true := by decide

theorem test_decode_idle : decodesTo (.port 0b000#3) ⟨0#8, 0#8, 0#8⟩ .idle = true := by decide

theorem test_decode_payloadRead : decodesTo (.readAddr 0b11111110#8) ⟨0#8, 0#8, 0#8⟩ (.payloadRead 0xFE#8) = true := by
  decide

theorem test_decode_rejects_phase_101 : rejectedAs (.byteOp 0b10110101010#11) ⟨3#8, 2#8, 1#8⟩ .illegalPhase = true := by
  decide

theorem test_decode_rejects_ports :
    rejectedAs (.port 0b010#3) ⟨0#8, 0#8, 0#8⟩ .byteTransfer = true ∧
    rejectedAs (.port 0b011#3) ⟨0#8, 0#8, 0#8⟩ .bothTransfers = true := by decide

/-! ### Table words -/

theorem test_table_words :
    decodeTableWord 16 0x0AA = some .wsStart ∧ decodeTableWord 16 0x1AA = some (.rlLen 0xAA#8) ∧
    decodeTableWord 16 0x211 = some (.rcMore 0x11#8) ∧ decodeTableWord 16 0x400 = some (.rkMatch 0x00#8) ∧
    decodeTableWord 16 0x401 = some (.rkMismatch 0x01#8) ∧ decodeTableWord 16 0x500 = none ∧
    decodeTableWord 16 0x8AA = none ∧ decodeTableWord 8 4 = some (.reset false false) ∧
    decodeTableWord 8 1 = some .accept ∧ decodeTableWord 8 0 = some .idle ∧
    decodeTableWord 8 0xFD = some (.payloadRead 0xFD#8) := by decide

/-- The table word of RL.LEN 03 runs as the first instruction after reset (RL-4). -/
theorem test_first_step_runs_table_word :
    nextIs (step (State.reset.withFetchWord 16 0x103)) (st .readCommand 0x03#8 0x00#8 0x03#8 0x00#8 []) = true := by
  decide

/-! ### One step of each instruction -/

/-- WS-3. -/
theorem test_wsDiscard_near_miss :
    nextIs (exec (.wsDiscard 0xAB#8) (st .waitStart 0x03#8 0x01#8 0x01#8 0x02#8 []))
      (st .waitStart 0x03#8 0x01#8 0x01#8 0x02#8 []) = true := by decide

/-- WS-6: only `idx_r` is cleared. -/
theorem test_wsStart :
    nextIs (exec .wsStart (st .waitStart 0x03#8 0x01#8 0x01#8 0x02#8 []))
      (st .readLength 0x03#8 0x01#8 0x01#8 0x00#8 []) = true := by decide

/-- RL-2: `cmd_r` is not written. -/
theorem test_rlZero :
    nextIs (exec .rlZero (st .readLength 0x03#8 0x01#8 0x01#8 0x00#8 []))
      (st .waitStart 0x00#8 0x01#8 0x00#8 0x00#8 []) = true := by decide

/-- RL-5. -/
theorem test_rlLen_marker_is_a_length :
    nextIs (exec (.rlLen 0xAA#8) (st .readLength 0x00#8 0x00#8 0x00#8 0x00#8 []))
      (st .readCommand 0xAA#8 0x00#8 0xAA#8 0x00#8 []) = true := by decide

/-- RC-3. -/
theorem test_rcLast :
    nextIs (exec (.rcLast 0xAA#8) (st .readCommand 0x01#8 0x00#8 0x01#8 0x00#8 []))
      (st .readChecksum 0x01#8 0xAA#8 0xAB#8 0x00#8 []) = true := by decide

/-- RC-7. -/
theorem test_rcMore :
    nextIs (exec (.rcMore 0x12#8) (st .readCommand 0xFF#8 0x00#8 0xFF#8 0x00#8 []))
      (st .readPayload 0xFF#8 0x12#8 0xED#8 0x00#8 []) = true := by decide

/-- RP-1. -/
theorem test_rpMore :
    nextIs (exec (.rpMore 0x05#8) (st .readPayload 0x03#8 0x01#8 0x02#8 0x00#8 []))
      (st .readPayload 0x03#8 0x01#8 0x07#8 0x01#8 [(0, 0x05#8)]) = true := by decide

/-- RP-6. -/
theorem test_rpMore_highest_index :
    nextIs (exec (.rpMore 0xFC#8) (st .readPayload 0xFF#8 0x12#8 0xED#8 0xFC#8 []))
      (st .readPayload 0xFF#8 0x12#8 0x11#8 0xFD#8 [(252, 0xFC#8)]) = true := by decide

/-- RP-2. -/
theorem test_rpLast :
    nextIs (exec (.rpLast 0x06#8) (st .readPayload 0x03#8 0x01#8 0x07#8 0x01#8 [(0, 0x05#8)]))
      (st .readChecksum 0x03#8 0x01#8 0x01#8 0x02#8 [(0, 0x05#8), (1, 0x06#8)]) = true := by decide

/-- RP-7. -/
theorem test_rpLast_highest_entry :
    nextIs (exec (.rpLast 0xFD#8) (st .readPayload 0xFF#8 0x12#8 0x11#8 0xFD#8 []))
      (st .readChecksum 0xFF#8 0x12#8 0xEC#8 0xFE#8 [(253, 0xFD#8)]) = true := by decide

/-- RK-1: the state after, and the frame delivered. -/
theorem test_rkMatch :
    nextIs (exec (.rkMatch 0x01#8) (st .readChecksum 0x03#8 0x01#8 0x01#8 0x02#8 [(0, 0x05#8), (1, 0x06#8)]))
      (stRes .frame 0x03#8 0x01#8 0x01#8 0x02#8 [(0, 0x05#8), (1, 0x06#8)]) = true ∧
    (stRes .frame 0x03#8 0x01#8 0x01#8 0x02#8 [(0, 0x05#8), (1, 0x06#8)]).result =
      some (.frame 0x01#8 0x03#8 [0x05#8, 0x06#8]) := by decide

/-- RK-6: the 0xAA does not start a frame. -/
theorem test_rkMismatch_marker :
    nextIs (exec (.rkMismatch 0xAA#8) (st .readChecksum 0x01#8 0x11#8 0x10#8 0x00#8 []))
      (stRes .chkErr 0x01#8 0x11#8 0x10#8 0x00#8 []) = true ∧
    (stRes .chkErr 0x01#8 0x11#8 0x10#8 0x00#8 []).result = some (.chkErr 0x11#8 0x01#8) := by decide

/-- PT-1: the buffer is kept. -/
theorem test_reset_mid_frame :
    nextIs (react (.edge ⟨true, false, 0x00#8, false⟩)
        (st .readPayload 0x05#8 0x01#8 0x00#8 0x02#8 [(0, 0x05#8), (1, 0x01#8)]))
      (State.resetWith [(0, 0x05#8), (1, 0x01#8)] 0x00#8 []) = true := by decide

/-- PT-2: the result is dropped, not accepted. -/
theorem test_reset_drops_result :
    nextIs (react (.edge ⟨true, false, 0x00#8, true⟩) (stRes .chkErr 0x03#8 0x01#8 0x01#8 0x02#8 [])) State.reset = true ∧
    (stRes .chkErr 0x03#8 0x01#8 0x01#8 0x02#8 []).accepted (.edge ⟨true, false, 0x00#8, true⟩) = none := by decide

/-- PT-4: the offered byte is not consumed. -/
theorem test_accept :
    nextIs (react (.edge ⟨false, true, 0xAA#8, true⟩) (stRes .frame 0x03#8 0x01#8 0x01#8 0x02#8 []))
      (st .waitStart 0x03#8 0x01#8 0x01#8 0x02#8 []) = true := by decide

/-- ACCEPT leaves `res_kind` (R116). -/
theorem test_accept_keeps_kind :
    nextIs (exec .accept (stRes .chkErr 0x01#8 0x11#8 0x10#8 0x00#8 []))
      { stRes .chkErr 0x01#8 0x11#8 0x10#8 0x00#8 [] with resValid := false } = true := by decide

/-- PT-5: the result stays pending. -/
theorem test_idle_result_pending :
    nextIs (react (.edge ⟨false, true, 0x55#8, false⟩) (stRes .frame 0x03#8 0x01#8 0x01#8 0x02#8 []))
      (stRes .frame 0x03#8 0x01#8 0x01#8 0x02#8 []) = true := by decide

/-- Phase code 110 recovers and no byte is consumed (spec/10_state.md R23). -/
theorem test_idle_recovers :
    nextIs (react (.edge ⟨false, true, 0xAA#8, true⟩) (stBad 0b110#3)) State.reset = true := by decide

/-- PT-9. -/
theorem test_payloadRead :
    nextIs (exec (.payloadRead 0x01#8) (stRes .frame 0x03#8 0x01#8 0x01#8 0x02#8 [(0, 0x05#8), (1, 0x06#8)]))
      { stRes .frame 0x03#8 0x01#8 0x01#8 0x02#8 [(0, 0x05#8), (1, 0x06#8)] with rdAddr := 0x01#8 } = true ∧
    State.rdData { stRes .frame 0x03#8 0x01#8 0x01#8 0x02#8 [(0, 0x05#8), (1, 0x06#8)] with rdAddr := 0x01#8 } =
      0x06#8 := by decide

/-- PT-8: the old value before the edge, the new one after it. -/
theorem test_read_during_write :
    (st .readPayload 0x03#8 0x01#8 0x02#8 0x00#8 [(0, 0x9C#8)]).rdData = 0x9C#8 ∧
    nextIs (react (.edge (Edge.offer 0x05#8)) (st .readPayload 0x03#8 0x01#8 0x02#8 0x00#8 [(0, 0x9C#8)]))
      (st .readPayload 0x03#8 0x01#8 0x07#8 0x01#8 [(0, 0x05#8)]) = true := by decide

/-! ### The stream notation: the example bytes of spec/30_encoding.md R72 and spec/95_test_vectors.md L1-3 -/

theorem test_mouseMove :
    (mouseMove 5 6).events = [0xAA#8, 0x03#8, 0x01#8, 0x05#8, 0x06#8, 0x01#8].map .byte ∧
    (mouseMove 127 (-128)).events = [0xAA#8, 0x03#8, 0x01#8, 0x7F#8, 0x80#8, 0xFD#8].map .byte := by decide

theorem test_mouseClick : (mouseClick 0x05#8).events = [0xAA#8, 0x02#8, 0x02#8, 0x05#8, 0x05#8].map .byte := by decide

theorem test_mouseWheel : (mouseWheel (-1)).events = [0xAA#8, 0x02#8, 0x03#8, 0xFF#8, 0xFE#8].map .byte := by decide

theorem test_keyCombo : (keyCombo 0x01#8 [0x04#8, 0x05#8]).events =
    [0xAA#8, 0x05#8, 0x10#8, 0x01#8, 0x02#8, 0x04#8, 0x05#8, 0x17#8].map .byte := by decide

theorem test_keyRelease : keyRelease.events = [0xAA#8, 0x01#8, 0x11#8, 0x10#8].map .byte := by decide

theorem test_typeText : (typeText [0x61#8, 0x62#8, 0x63#8]).events =
    [0xAA#8, 0x05#8, 0x12#8, 0x03#8, 0x61#8, 0x62#8, 0x63#8, 0x74#8].map .byte := by decide

/-- The directives of program P2. -/
theorem test_directives :
    Directive.events .zlen = [0xAA#8, 0x00#8].map .byte ∧
    (Directive.framec 0xFF#8 0x11#8 []).events = [0xAA#8, 0x01#8, 0x11#8, 0xFF#8].map .byte ∧
    (Directive.raw [0x55#8]).events = [.byte 0x55#8] ∧ Directive.events .reset = [.reset] := by decide

/-! ### Witnesses of the obligations' hypotheses, in the obligations' order

`rp`, `rpHigh`, `rk`, `rc1`, `rcFF` are states of the invariant; `pend` has a result pending. -/

def rl : State := st .readLength 0x03#8 0x01#8 0x01#8 0x00#8 []
def rc1 : State := st .readCommand 0x01#8 0x00#8 0x01#8 0x00#8 []
def rcFF : State := st .readCommand 0xFF#8 0x00#8 0xFF#8 0x00#8 []
def rp : State := st .readPayload 0x03#8 0x01#8 0x02#8 0x00#8 []
def rpLow : State := st .readPayload 0x02#8 0x02#8 0x00#8 0x00#8 []
def rpHigh : State := st .readPayload 0xFF#8 0x12#8 0xED#8 0xFC#8 []
def rpTop : State := st .readPayload 0xFF#8 0x12#8 0xED#8 0xFD#8 []
def rk : State := st .readChecksum 0x03#8 0x01#8 0x01#8 0x02#8 [(0, 0x05#8), (1, 0x06#8)]
def rkTop : State := st .readChecksum 0xFF#8 0x12#8 0xED#8 0xFE#8 []
def pend : State := stRes .frame 0x03#8 0x01#8 0x01#8 0x02#8 [(0, 0x05#8), (1, 0x06#8)]

theorem inv_rl : Inv rl := by constructor <;> decide
theorem inv_rc1 : Inv rc1 := by constructor <;> decide
theorem inv_rcFF : Inv rcFF := by constructor <;> decide
theorem inv_rp : Inv rp := by constructor <;> decide
theorem inv_rpHigh : Inv rpHigh := by constructor <;> decide +kernel
theorem inv_rpTop : Inv rpTop := by constructor <;> decide +kernel
theorem inv_rk : Inv rk := by constructor <;> decide
theorem inv_rkTop : Inv rkTop := by constructor <;> decide +kernel
theorem inv_pend : Inv pend := by constructor <;> decide

/-- A reachable state. -/
theorem reachable_reset : Reachable State.reset := .start [] 0x00#8 [] (by decide)

theorem witness_DecodeOfEncode :
    ((Instr.rpLast 0xAA#8).wf = true ∧ (Instr.rpLast 0xAA#8).guardHolds ⟨0xFF#8, 0xFD#8, 0x00#8⟩ = true) ∧
    ((Instr.rkMatch 0xAA#8).wf = true ∧ (Instr.rkMatch 0xAA#8).guardHolds ⟨1#8, 0#8, 0xAA#8⟩ = true) := by decide

theorem witness_EncodeOfDecode : decode (.byteOp 0b01000010001#11) ⟨1#8, 0#8, 1#8⟩ = .ok (.rcLast 0x11#8) := by rfl

theorem witness_ExactlyOneRowAccepts :
    (0b000#3).toNat ≤ 4 ∧ (0b100#3).toNat ≤ 4 ∧ 5 ≤ (0b101#3).toNat ∧ 5 ≤ (0b111#3).toNat := by decide

theorem witness_IllegalWordsAreRejected : 5 ≤ (0b101#3).toNat ∧ 5 ≤ (0b111#3).toNat := by decide

theorem witness_WsDiscardWritesNothing :
    State.reset.phase = 0b000#3 ∧ State.reset.resValid = false ∧ 0x00#8 ≠ 0xAA#8 ∧ 0xFF#8 ≠ 0xAA#8 := by decide

theorem witness_WsStartOpensFrame :
    (State.reset.phase = 0b000#3 ∧ State.reset.resValid = false) ∧
    decode (.byteOp (0b000#3 ++ 0xAA#8)) ⟨0#8, 0#8, 0#8⟩ = .ok .wsStart ∧
    decode (.byteOp (0b001#3 ++ 0xAA#8)) ⟨0#8, 0#8, 0#8⟩ = .ok (.rlLen 0xAA#8) := ⟨by decide, rfl, rfl⟩

theorem witness_RlZeroDropsFrame : rl.phase = 0b001#3 ∧ rl.resValid = false := by decide

theorem witness_RlLenLoadsLength :
    rl.phase = 0b001#3 ∧ rl.resValid = false ∧ 0x01#8 ≠ 0x00#8 ∧ 0xFF#8 ≠ 0x00#8 := by decide

theorem witness_RcLastLoadsCommand :
    (rc1.phase = 0b010#3 ∧ rc1.resValid = false ∧ rc1.lenR = 0x01#8) ∧ Inv rc1 := ⟨by decide, inv_rc1⟩

theorem witness_RcMoreLoadsCommand :
    (rcFF.phase = 0b010#3 ∧ rcFF.resValid = false ∧ rcFF.lenR ≠ 0x01#8) ∧ Inv rcFF := ⟨by decide, inv_rcFF⟩

/-- At the highest index of RP.MORE. -/
theorem witness_RpMoreStoresByte :
    (rpHigh.phase = 0b011#3 ∧ rpHigh.resValid = false ∧ rpHigh.idxR.toNat + 2 ≠ rpHigh.lenR.toNat) ∧ Inv rpHigh :=
  ⟨by decide, inv_rpHigh⟩

/-- At the lowest and the highest index of RP.LAST. -/
theorem witness_RpLastStoresLastByte :
    (rpLow.phase = 0b011#3 ∧ rpLow.resValid = false ∧ rpLow.idxR.toNat + 2 = rpLow.lenR.toNat) ∧
    (rpTop.phase = 0b011#3 ∧ rpTop.resValid = false ∧ rpTop.idxR.toNat + 2 = rpTop.lenR.toNat) := by decide

theorem witness_RkMatchDeliversFrame : rk.phase = 0b100#3 ∧ rk.resValid = false ∧ 0x01#8 = rk.chkR := by decide

theorem witness_RkMismatchReportsError : rk.phase = 0b100#3 ∧ rk.resValid = false ∧ 0x07#8 ≠ rk.chkR := by decide

theorem witness_ResetWritesResetValues : (Edge.mk true true 0x03#8 true).rst = true := by decide

theorem witness_AcceptTakesPendingResult :
    (pend.phase.toNat ≤ 4 ∧ pend.resValid = true) ∧ (rk.phase.toNat ≤ 4 ∧ rk.resValid = false) ∧
    (Edge.mk false true 0xAA#8 true).rst = false ∧ (Edge.mk false true 0xAA#8 true).resReady = true ∧ Inv pend :=
  ⟨by decide, by decide, by decide, by decide, inv_pend⟩

theorem witness_IdleEdgeKeepsState :
    Edge.quiet.rst = false ∧
    (rk.xferIn Edge.quiet = false ∧ rk.xferOut Edge.quiet = false ∧ rk.phase.toNat ≤ 4) ∧
    ((stBad 0b101#3).xferIn Edge.quiet = false ∧ (stBad 0b101#3).xferOut Edge.quiet = false ∧
      5 ≤ (stBad 0b101#3).phase.toNat) := by decide

theorem witness_IllegalPhaseRecovers :
    (rk.phase.toNat ≤ 4 ∧ exec (.rkMatch 0x01#8) rk = .next pend) ∧
    5 ≤ (stBad 0b101#3).phase.toNat ∧ 5 ≤ (stBad 0b111#3).phase.toNat ∧ Edge.quiet.rst = false :=
  ⟨⟨by decide, rfl⟩, by decide, by decide, by decide⟩

theorem witness_ByteOperationStopsWhereNotSelected :
    encode (.rlLen 0x03#8) = .byteOp 0x103#11 ∧ encode (.rkMismatch 0x07#8) = .byteOp 0x407#11 := by decide

theorem witness_AcceptElsewhereIsHarmless :
    5 ≤ (stBad 0b101#3).phase.toNat ∧ 5 ≤ (stBad 0b111#3).phase.toNat ∧
    (State.reset.phase.toNat ≤ 4 ∧ State.reset.resValid = false) ∧ (rk.phase.toNat ≤ 4 ∧ rk.resValid = false) := by decide

/-- One witness for each clause of the step: the byte, the reset, the idle and accepting vectors, the recovery, the read. -/
theorem witness_StepRunsSelectedInstruction :
    nextInstr (.edge (Edge.offer 0x05#8)) { rp with pending := [.edge (Edge.offer 0x05#8)] } = .ok (.rpMore 0x05#8) ∧
    (rp.resValid = false ∧ rp.phase.toNat ≤ 4 ∧ decode (.byteOp (rp.phase ++ 0x05#8)) rp.guards = .ok (.rpMore 0x05#8)) ∧
    (Edge.quiet.rst = false ∧ rk.xferIn Edge.quiet = false ∧
      decode (.port (portWord false false (rk.xferOut Edge.quiet))) rk.guards = .ok .idle) ∧
    (pend.xferIn ⟨false, true, 0xAA#8, true⟩ = false ∧
      decode (.port (portWord false false (pend.xferOut ⟨false, true, 0xAA#8, true⟩))) pend.guards = .ok .accept) ∧
    5 ≤ (stBad 0b111#3).phase.toNat ∧ State.reset.pending = [] ∧
    State.pending { pend with pending := [.read 0x01#8] } = .read 0x01#8 :: [] :=
  ⟨rfl, ⟨rfl, by decide, rfl⟩, ⟨rfl, rfl, rfl⟩, ⟨rfl, rfl⟩, by decide, rfl, rfl⟩

theorem witness_EdgePriority :
    (Edge.mk true true 0x03#8 true).rst = true ∧ 5 ≤ (stBad 0b101#3).phase.toNat ∧
    (rk.phase.toNat ≤ 4 ∧ (Edge.offer 0x07#8).inValid = true ∧ rk.inReady (Edge.offer 0x07#8).rst = true) ∧
    (pend.phase.toNat ≤ 4 ∧ ¬ pend.inReady false = true ∧ pend.resValid = true) ∧
    (State.reset.phase.toNat ≤ 4 ∧ Edge.quiet.inValid = false ∧ State.reset.resValid = false) := by decide

theorem witness_InReadyFormula : Reachable State.reset := reachable_reset

theorem witness_ByteTransferIsFeed :
    ((Edge.offer 0x01#8).rst = false ∧ (Edge.offer 0x01#8).inValid = true ∧ rk.inReady (Edge.offer 0x01#8).rst = true) ∧
    Edge.quiet.inValid = false ∧ pend.inReady (Edge.offer 0x01#8).rst = false := by decide

theorem witness_TableWordRunsNext :
    decodeTableWord 16 0x3AA = some (.rpMore 0xAA#8) ∧ decodeTableWord 8 1 = some .accept := by decide

theorem witness_RegistersKeepUnlessListed :
    rk.phase.toNat ≤ 4 ∧ exec (.rkMatch 0x01#8) rk = .next pend ∧ Reg.writtenBy .lenR (.rkMatch 0x01#8) = false ∧
    ∀ a, Instr.rkMatch 0x01#8 ≠ .payloadRead a := ⟨by decide, rfl, rfl, fun _ h => nomatch h⟩

theorem witness_OnlyPayloadBytesWriteBuffer :
    (rpLow.phase = 0b011#3 ∧ ∃ t, feed 0x05#8 rpLow = some (t, none)) ∧ exec (.rkMatch 0x01#8) rk = .next pend ∧
    (∀ b, Instr.rkMatch 0x01#8 ≠ .rpMore b) ∧ ∀ b, Instr.rkMatch 0x01#8 ≠ .rpLast b :=
  ⟨⟨rfl, _, rfl⟩, rfl, fun _ h => (nomatch h), fun _ h => (nomatch h)⟩

theorem witness_InvHoldsAfterReset : Memory.wf [(0, 0x05#8), (255, 0xFF#8)] := by decide

theorem witness_InvKeptByStep : Inv rk ∧ step rk = .next rk := ⟨inv_rk, rfl⟩

/-- A reachable state in ReadChecksum: after `AA 01 11`. -/
theorem witness_ChecksumRegisterIsClosedForm :
    Reachable (st .readChecksum 0x01#8 0x11#8 0x10#8 0x00#8 []) ∧
    (st .readChecksum 0x01#8 0x11#8 0x10#8 0x00#8 []).phase = 0b100#3 :=
  ⟨.step _ _ (.step _ _ (.step _ _ (.start [] 0x00#8
      [.edge (Edge.offer 0xAA#8), .edge (Edge.offer 0x01#8), .edge (Edge.offer 0x11#8)] (by decide)) rfl) rfl) rfl, rfl⟩

theorem witness_WritesStayBelow254 : Inv rpTop ∧ step rpTop = .next rpTop := ⟨inv_rpTop, rfl⟩

theorem witness_ArithmeticNeverWraps :
    (Inv rpTop ∧ rpTop.phase = 0b011#3) ∧ (Inv rc1 ∧ rc1.phase = 0b010#3) ∧ (Inv rkTop ∧ rkTop.phase = 0b100#3) ∧
    (Inv pend ∧ pend.resValid = true) := ⟨⟨inv_rpTop, rfl⟩, ⟨inv_rc1, rfl⟩, ⟨inv_rkTop, rfl⟩, inv_pend, rfl⟩

theorem witness_PendingResultStaysUntilAccepted :
    (pend.resValid = true ∧ pend.phase.toNat ≤ 4) ∧
    ∀ e : Edge, Stimulus.edge e ∈ [.edge (Edge.offer 0xAA#8), .read 0x01#8] → e.rst = false ∧ e.resReady = false :=
  ⟨by decide, by simp [Edge.offer]⟩

theorem witness_FeedDefinedExactlyWhenReady :
    feed 0x01#8 rk = some (pend, some (.frame 0x01#8 0x03#8 [0x05#8, 0x06#8])) ∧ ∃ t, feed 0x05#8 rpLow = some (t, none) :=
  ⟨by decide, _, rfl⟩

theorem witness_FramingErrorsReturnToWaitStart :
    (rl.phase = 0b001#3 ∧ rl.resValid = false) ∧ (rk.phase = 0b100#3 ∧ rk.resValid = false ∧ 0x07#8 ≠ rk.chkR) := by decide

/-- A fed byte for each row of the table, at the smallest and the largest length where it has one. -/
theorem witness_PhaseTransitionTable :
    ((feed 0xAB#8 State.reset).isSome ∧ 0xAB#8 ≠ 0xAA#8) ∧ (feed 0xAA#8 State.reset).isSome ∧
    (rl.phase = 0b001#3 ∧ (feed 0x00#8 rl).isSome ∧ (feed 0xFF#8 rl).isSome) ∧
    (rc1.phase = 0b010#3 ∧ rc1.lenR = 0x01#8 ∧ (feed 0x11#8 rc1).isSome) ∧
    (rcFF.phase = 0b010#3 ∧ 2 ≤ rcFF.lenR.toNat ∧ (feed 0x12#8 rcFF).isSome) ∧
    (rpHigh.phase = 0b011#3 ∧ rpHigh.idxR.toNat + 2 ≠ rpHigh.lenR.toNat ∧ (feed 0xFC#8 rpHigh).isSome) ∧
    (rpTop.phase = 0b011#3 ∧ rpTop.idxR.toNat + 2 = rpTop.lenR.toNat ∧ (feed 0xFD#8 rpTop).isSome) ∧
    (rk.phase = 0b100#3 ∧ (feed 0x01#8 rk).isSome) ∧
    (rk.phase.toNat ≤ 4 ∧ nextIs (react (.edge Edge.quiet) rk) rk = true ∧ rk.consumed (.edge Edge.quiet) = none ∧
      Stimulus.isReset (.edge Edge.quiet) = false) := by decide

/-- With no payload and with the longest one. -/
theorem witness_FrameDeliveredFaithfully :
    ([] : List Byte).length ≤ 254 ∧ (List.replicate 254 0xAA#8).length ≤ 254 ∧
    State.reset.phase = 0b000#3 ∧ State.reset.resValid = false := ⟨by simp, Nat.le_of_eq List.length_replicate, rfl, rfl⟩

theorem witness_PayloadBitFlipIsRejected :
    0 < [0x05#8, 0x06#8].length ∧ 1 < [0x05#8, 0x06#8].length ∧ [0x05#8, 0x06#8].length ≤ 254 ∧ 7 < 8 ∧
    State.reset.phase = 0b000#3 ∧ State.reset.resValid = false := by decide

theorem witness_ChecksumDetectsNonzeroSyndrome :
    [0x05#8, 0x06#8].length ≤ 254 ∧ State.reset.phase = 0b000#3 ∧ State.reset.resValid = false ∧
    [0x01#8, 0x01#8].length = [0x05#8, 0x06#8].length ∧ List.Perm [0x06#8, 0x05#8] [0x05#8, 0x06#8] := by decide

/-- At the bound of each phase. -/
theorem witness_ReturnsToWaitStartInBoundedBytes :
    (Inv rl ∧ rl.resValid = false ∧ (List.replicate 257 0x00#8).length = returnBound rl) ∧
    (Inv rcFF ∧ rcFF.resValid = false ∧ (List.replicate 256 0x00#8).length = returnBound rcFF) ∧
    (Inv rpTop ∧ rpTop.resValid = false ∧ [0x00#8, 0x01#8].length = returnBound rpTop) ∧
    (Inv rk ∧ rk.resValid = false ∧ [0xAA#8].length = returnBound rk) ∧
    (rl.phase = 0b001#3 ∧ (List.replicate 256 0x00#8).length = 256 ∧
      ∃ t rs, feedAll ((0xFF#8 :: List.replicate 256 0x00#8).take 1) rl = some (t, rs)) :=
  ⟨⟨inv_rl, rfl, List.length_replicate.trans (by decide)⟩, ⟨inv_rcFF, rfl, List.length_replicate.trans (by decide)⟩,
    ⟨inv_rpTop, by decide⟩, ⟨inv_rk, by decide⟩, rfl, List.length_replicate, _, _, rfl⟩

theorem witness_ResynchronisesAfterMarkerFreeGarbage :
    (0xAA#8 ∉ List.replicate 257 0x00#8 ∧ 257 ≤ (List.replicate 257 0x00#8).length ∧ [0x05#8].length ≤ 254) ∧
    (Inv rp ∧ rp.resValid = false) ∧ (State.reset.phase = 0b000#3 ∧ State.reset.resValid = false) :=
  ⟨⟨fun h => absurd (List.eq_of_mem_replicate h) (by decide), Nat.le_of_eq List.length_replicate.symm, by simp⟩, ⟨inv_rp, rfl⟩, by decide⟩

/-- The corrupted length 0; 1 and 2 below the true length 3; 4 and 255 above it. -/
theorem witness_LengthByteDecidesFraming :
    ([0x05#8, 0x06#8].length ≤ 254 ∧ State.reset.phase = 0b000#3 ∧ State.reset.resValid = false) ∧
    0xAA#8 ∉ 0x01#8 :: ([0x05#8, 0x06#8] ++ [0x01#8]) ∧
    (1 ≤ (0x01#8).toNat ∧ (0x02#8).toNat < [0x05#8, 0x06#8].length + 1) ∧
    ([0x05#8, 0x06#8].length + 1 < (0x04#8).toNat ∧ [0x05#8, 0x06#8].length + 1 < (0xFF#8).toNat ∧
      [0xAA#8].length = (0x04#8).toNat - ([0x05#8, 0x06#8].length + 1)) := by decide

theorem witness_StartMarkerIsDataInsideFrame :
    (rl.phase = 0b001#3 ∧ (feed 0xAA#8 rl).isSome) ∧ (rc1.phase = 0b010#3 ∧ (feed 0xAA#8 rc1).isSome) ∧
    (rpLow.phase = 0b011#3 ∧ (feed 0xAA#8 rpLow).isSome) ∧ (rk.phase = 0b100#3 ∧ (feed 0xAA#8 rk).isSome) := by decide

theorem witness_CycleRunMatchesTransactionRun :
    State.reset.phase.toNat ≤ 4 ∧ State.reset.resValid = false ∧
    ∀ m ∈ [Stimulus.edge (Edge.offer 0xAA#8), .read 0x01#8, .edge Edge.quiet], m.isReset = false := by decide

theorem witness_EdgesBoundBytesAndResults :
    ∃ t, cycleRun [.edge (Edge.offer 0xAA#8), .read 0x01#8] State.reset = some (t, [0xAA#8], []) := ⟨_, rfl⟩

theorem witness_ResetStartsNewRun :
    (∃ t, runProgram [.byte 0xAA#8] State.reset = some (t, [])) ∧
    ∃ u, runProgram [.byte 0x55#8] (State.resetWith [] 0x00#8 []) = some (u, []) := ⟨⟨_, rfl⟩, _, rfl⟩

theorem witness_WireFrameLayout :
    (List.replicate 254 0xAA#8).length ≤ 254 ∧ 0 < (List.replicate 254 0xAA#8).length ∧
    253 < (List.replicate 254 0xAA#8).length := by rw [List.length_replicate]; decide

theorem witness_ReadInWriteCycleShowsOldByte :
    (rp.phase = 0b011#3 ∧ rp.resValid = false ∧ (Edge.offer 0x05#8).rst = false ∧ (Edge.offer 0x05#8).inValid = true ∧
      rp.rdAddr = rp.idxR) ∧
    (pend.resValid = true ∧ nextIs (react (.edge (Edge.offer 0xAA#8)) pend) pend = true) := by decide

/-- The first and the last address of the slice, and the two other kinds of state. -/
theorem witness_DeliveredSliceReadsBuffer :
    (pend.resValid = true ∧ pend.resKind = .frame ∧ (0x00#8).toNat < [0x05#8, 0x06#8].length ∧
      (0x01#8).toNat < [0x05#8, 0x06#8].length) ∧
    ((stRes .chkErr 0x01#8 0x11#8 0x10#8 0x00#8 []).resValid = true ∧
      (stRes .chkErr 0x01#8 0x11#8 0x10#8 0x00#8 []).resKind = .chkErr) ∧ rk.resValid = false := by decide

theorem witness_InstancesAreIndependent :
    (1 : Fin 2) ≠ 0 ∧ ∃ υ : System 2, stepInstance 1 (Vector.replicate 2 rk) = .next υ := ⟨by decide, _, rfl⟩

/-- With nothing and with a byte before the 0xAA (the stream of LW-6 without its length). -/
theorem witness_MarkerAfterZeroLengthStartsFrame :
    0xAA#8 ∉ ([] : List Byte) ∧ 0xAA#8 ∉ [0x01#8, 0x05#8] ∧ State.reset.phase = 0b000#3 ∧
    State.reset.resValid = false := by decide

end Sys2Proof.Tests
end

section
/-! PROOFS. The state family: the invariant is kept by every step (O32), who writes which register (O29), and the phase
transition table (O39). -/

namespace Sys2Proof.Machine

variable {s t u : State} {b : Byte} {r r' : Option Result} {p : Phase} {m : Stimulus} {i : Instr} {q : Reg}

/-! ### What a byte and a move can do -/

theorem next_unique {o : Host.Outcome State Fault Refusal} (h : o = .next t) (h' : o = .next u) : t = u :=
  Host.Outcome.next.inj (h.symm.trans h')

theorem phaseLegal_iff_toNat_le : ∀ {c : BitVec 3}, phaseLegal c = true ↔ c.toNat ≤ 4 := by decide

/-- `feed` is defined only where the block is free (spec/40_frame_decode.md R80). -/
theorem ready_of_feed (h : feed b s = some (t, r)) : s.resValid = false ∧ phaseLegal s.phase = true := by
  unfold feed at h
  split at h
  · cases h
  · simp_all

theorem readyIn_of_feed (h : feed b s = some (t, r)) (hp : s.phase = p.code) : s.readyIn p = true :=
  (readyIn_iff s p).mpr ⟨hp, (ready_of_feed h).1⟩

theorem feed_state_unique (h : feed b s = some (t, r)) (h' : feed b s = some (u, r')) : t = u := by
  simp_all

/-- A byte transfer is a `feed` (spec/41_interface.md R113), seen from the cycle level. -/
theorem feed_of_react {e : Edge} (hx : s.xferIn e = true) (h : react (.edge e) s = .next t) :
    feed e.inData s = some (t, t.result) := by
  obtain ⟨_, _, hv, hl⟩ := xferIn_iff.mp hx
  rw [react, nextInstr_byte hx] at h
  cases hd : decode (.byteOp (s.opWord e.inData)) s.guards with
  | error _ => simp [hd] at h
  | ok i =>
    have he : exec i s = .next t := by simpa [hd] using h
    simp [feed, hv, hl, hd, he]

/-- Everything a move can do in a legal phase, in the order of spec/60_exceptions.md R135. -/
theorem react_cases (hl : phaseLegal s.phase = true) (h : react m s = .next t) :
    (∃ e, m = .edge e ∧ e.rst = true ∧ t = s.resetRegisters) ∨
    (∃ e, m = .edge e ∧ s.xferIn e = true ∧ feed e.inData s = some (t, t.result)) ∨
    (∃ e, m = .edge e ∧ s.xferOut e = true ∧ t = s.clearResult) ∨
    (∃ e, m = .edge e ∧ t = s) ∨
    (∃ a, m = .read a ∧ t = s.driveReadAddress a) := by
  cases m with
  | read a => exact .inr (.inr (.inr (.inr ⟨a, rfl, next_unique h (react_read a)⟩)))
  | edge e =>
    cases hr : e.rst with
    | true => exact .inl ⟨e, rfl, hr, next_unique h (react_reset hr)⟩
    | false =>
      cases hi : s.xferIn e with
      | true => exact .inr (.inl ⟨e, rfl, hi, feed_of_react hi h⟩)
      | false =>
        cases ho : s.xferOut e with
        | true => exact .inr (.inr (.inl ⟨e, rfl, ho, next_unique h (react_accept hr hl ho)⟩))
        | false => exact .inr (.inr (.inr (.inl ⟨e, rfl, next_unique h (react_idle hr hl hi ho)⟩)))

/-! ### The invariant -/

/-- The row of the invariant for one phase (spec/10_state.md R34). -/
def PhaseRow (s : State) : Phase → Prop
  | .waitStart => True
  | .readLength => s.idxR = 0#8
  | .readCommand => 1 ≤ s.lenR.toNat ∧ s.chkR = s.lenR ∧ s.idxR = 0#8
  | .readPayload => s.idxR.toNat + 2 ≤ s.lenR.toNat ∧ s.chkR = s.closedForm s.idxR.toNat
  | .readChecksum => s.lenR.toNat = s.idxR.toNat + 1 ∧ s.chkR = s.closedForm s.idxR.toNat

/-- In a given phase the invariant is its row, the canonical buffer, and a pending result only in WaitStart, with the
checksum row kept. -/
theorem inv_iff_row (hp : s.phase = p.code) :
    Inv s ↔ s.buf.wf ∧ PhaseRow s p ∧ (s.resValid = true → p = .waitStart ∧ PhaseRow s .readChecksum) := by
  constructor
  · intro hi
    refine ⟨hi.bufWf, ?_, fun hv => ?_⟩
    · cases p with
      | waitStart => trivial
      | readLength => exact hi.readLength hp
      | readCommand => exact hi.readCommand hp
      | readPayload => exact hi.readPayload hp
      | readChecksum => exact hi.readChecksum hp
    · obtain ⟨hw, hrow⟩ := hi.pendingResult hv
      exact ⟨code_injective (hp.symm.trans hw), hrow⟩
  · rintro ⟨hb, hrow, hv⟩
    have row {q : Phase} (hq : s.phase = q.code) : PhaseRow s q := code_injective (hp.symm.trans hq) ▸ hrow
    refine ⟨hp ▸ phaseLegal_code p, hb, row, row, row, row, fun h => ?_⟩
    obtain ⟨rfl, hc⟩ := hv h
    exact ⟨hp, hc⟩

theorem inv_of_row (hp : t.phase = p.code) (hb : t.buf.wf) (hv : t.resValid = false) (hrow : PhaseRow t p) : Inv t :=
  (inv_iff_row hp).mpr ⟨hb, hrow, by simp [hv]⟩

theorem inv_resetWith {m : Memory} (h : m.wf) (a : Byte) (ms : List Stimulus) : Inv (State.resetWith m a ms) :=
  inv_of_row (p := .waitStart) rfl h rfl trivial

theorem inv_clearResult (h : Inv s) : Inv s.clearResult :=
  ⟨h.legalPhase, h.bufWf, h.readLength, h.readCommand, h.readPayload, h.readChecksum, by simp⟩

/-- The invariant does not read the driven address. -/
theorem inv_driveReadAddress (h : Inv s) (a : Byte) : Inv (s.driveReadAddress a) :=
  ⟨h.legalPhase, h.bufWf, h.readLength, h.readCommand, h.readPayload, h.readChecksum, h.pendingResult⟩

/-- The invariant does not read the coming moves. -/
theorem inv_popStimulus (h : Inv s) : Inv s.popStimulus :=
  ⟨h.legalPhase, h.bufWf, h.readLength, h.readCommand, h.readPayload, h.readChecksum, h.pendingResult⟩

/-- The command byte makes `chk_r` the closed form over no payload. -/
theorem chkR_loadCommand (h : s.chkR = s.lenR) : (s.loadCommand b).chkR = (s.loadCommand b).closedForm 0 := by
  simp [State.closedForm, xorBytes_nil, h]

/-- Storing at `idx_r` extends the closed form by the byte stored. -/
theorem closedForm_storePayload :
    (s.storePayload b).closedForm (s.idxR.toNat + 1) = s.closedForm s.idxR.toNat ^^^ b := by
  have hprefix : (s.storePayload b).payloadPrefix s.idxR.toNat = s.payloadPrefix s.idxR.toNat :=
    payloadPrefix_congr fun k hk => Memory.read_write_other _ _ (Nat.ne_of_lt hk)
  rw [closedForm_succ, storePayload_buf, Memory.read_write_same]
  simp [State.closedForm, hprefix]

/-- While a payload byte is still to come the index does not wrap (spec/40_frame_decode.md R101). -/
theorem toNat_idxR_succ (h : s.idxR.toNat + 2 ≤ s.lenR.toNat) : (s.idxR + 1#8).toNat = s.idxR.toNat + 1 := by
  have := s.lenR.isLt
  simp only [BitVec.toNat_add, BitVec.toNat_ofNat]
  omega

/-- A stored payload byte keeps the checksum register on the closed form at the new index. -/
theorem chkR_storePayload (h : PhaseRow s .readPayload) :
    (s.storePayload b).chkR = (s.storePayload b).closedForm (s.storePayload b).idxR.toNat := by
  rw [storePayload_chkR, storePayload_idxR, toNat_idxR_succ h.1, closedForm_storePayload, h.2]

theorem wf_storePayload (h : s.buf.wf) : (s.storePayload b).buf.wf := Memory.wf_write b h s.idxR.isLt

/-- Both checksum operations leave the checksum row to the pending result. -/
theorem inv_setResult (k : ResultKind) (hb : s.buf.wf) (h : PhaseRow s .readChecksum) :
    Inv ((s.goto .waitStart).setResult k) :=
  (inv_iff_row (p := .waitStart) rfl).mpr ⟨hb, trivial, fun _ => ⟨rfl, h⟩⟩

/-- A consumed byte keeps the invariant: phase by phase, and in each phase by the guards of its two operations. -/
theorem inv_of_feed (hi : Inv s) (h : feed b s = some (t, r)) : Inv t := by
  obtain ⟨hv, hl⟩ := ready_of_feed h
  obtain ⟨p, hp⟩ := exists_code_of_legal hl
  have hr := readyIn_of_feed h hp
  obtain ⟨hb, hrow, -⟩ := (inv_iff_row hp).mp hi
  cases p with
  | waitStart =>
    by_cases hm : b = Config.startMarker
    · subst hm
      rw [feed_state_unique h (feed_waitStart_start hr)]
      exact inv_of_row (p := .readLength) rfl hb hv rfl
    · rwa [feed_state_unique h (feed_waitStart_discard hr hm)]
  | readLength =>
    by_cases hz : b = 0x00#8
    · subst hz
      rw [feed_state_unique h (feed_readLength_zero hr)]
      exact inv_of_row (p := .waitStart) rfl hb hv trivial
    · rw [feed_state_unique h (feed_readLength_len hr hz)]
      have hpos : 1 ≤ b.toNat := by bv_omega
      exact inv_of_row (p := .readCommand) rfl hb hv ⟨hpos, rfl, hrow⟩
  | readCommand =>
    obtain ⟨hpos, hchk, -⟩ := hrow
    by_cases h1 : s.lenR = 1#8
    · rw [feed_state_unique h (feed_readCommand_last hr h1)]
      exact inv_of_row (p := .readChecksum) rfl hb hv ⟨by simp [h1], chkR_loadCommand hchk⟩
    · rw [feed_state_unique h (feed_readCommand_more hr h1)]
      have htwo : 2 ≤ s.lenR.toNat := by bv_omega
      exact inv_of_row (p := .readPayload) rfl hb hv ⟨by simpa using htwo, chkR_loadCommand hchk⟩
  | readPayload =>
    have hidx := toNat_idxR_succ hrow.1
    by_cases hlast : s.idxR.toNat + 2 = s.lenR.toNat
    · rw [feed_state_unique h (feed_readPayload_last hr hlast)]
      refine inv_of_row (p := .readChecksum) rfl (wf_storePayload hb) hv ⟨?_, chkR_storePayload hrow⟩
      simp only [goto_lenR, goto_idxR, storePayload_lenR, storePayload_idxR, hidx]
      omega
    · rw [feed_state_unique h (feed_readPayload_more hr hlast)]
      refine inv_of_row (p := .readPayload) hp (wf_storePayload hb) hv ⟨?_, chkR_storePayload hrow⟩
      have hle := hrow.1
      simp only [storePayload_lenR, storePayload_idxR, hidx]
      omega
  | readChecksum =>
    by_cases hc : b = s.chkR
    · rw [feed_state_unique h (feed_readChecksum_match hr hc)]
      exact inv_setResult .frame hb hrow
    · rw [feed_state_unique h (feed_readChecksum_mismatch hr hc)]
      exact inv_setResult .chkErr hb hrow

theorem inv_of_react (hi : Inv s) (h : react m s = .next t) : Inv t := by
  rcases react_cases hi.legalPhase h with
    ⟨_, _, _, rfl⟩ | ⟨_, _, _, hf⟩ | ⟨_, _, _, rfl⟩ | ⟨_, _, rfl⟩ | ⟨a, _, rfl⟩
  · exact inv_resetWith hi.bufWf _ _
  · exact inv_of_feed hi hf
  · exact inv_clearResult hi
  · exact hi
  · exact inv_driveReadAddress hi a

/-- Settles O32: the step is the reaction to the next move, and every reaction keeps the invariant. -/
theorem invKeptByStep : Obligations.InvKeptByStep := by
  intro s t hi h
  exact inv_of_react (inv_popStimulus hi) h

/-! ### Who writes which register -/

/-- What an instruction writes where it completes from a legal phase. -/
def State.effect (s : State) : Instr → State
  | .wsDiscard _ | .idle => s
  | .wsStart => s.clearIndex.goto .readLength
  | .rlZero => (s.loadLength 0x00#8).goto .waitStart
  | .rlLen b => (s.loadLength b).goto .readCommand
  | .rcLast b => (s.loadCommand b).goto .readChecksum
  | .rcMore b => (s.loadCommand b).goto .readPayload
  | .rpMore b => s.storePayload b
  | .rpLast b => (s.storePayload b).goto .readChecksum
  | .rkMatch _ => (s.goto .waitStart).setResult .frame
  | .rkMismatch _ => (s.goto .waitStart).setResult .chkErr
  | .reset _ _ => s.resetRegisters
  | .accept => s.clearResult
  | .payloadRead a => s.driveReadAddress a

theorem exec_next_eq_effect (hl : phaseLegal s.phase = true) (h : exec i s = .next t) : t = s.effect i := by
  cases i with
  | wsDiscard b => exact (execWsDiscard_next.mp h).2.2
  | wsStart => exact (execWsStart_next.mp h).2
  | rlZero => exact (execRlZero_next.mp h).2
  | rlLen b => exact (execRlLen_next.mp h).2.2
  | rcLast b => exact (execRcLast_next.mp h).2.2
  | rcMore b => exact (execRcMore_next.mp h).2.2
  | rpMore b => exact (execRpMore_next.mp h).2.2
  | rpLast b => exact (execRpLast_next.mp h).2.2
  | rkMatch b => exact (execRkMatch_next.mp h).2.2
  | rkMismatch b => exact (execRkMismatch_next.mp h).2.2
  | reset x y => exact next_unique h (execReset_eq x y)
  | accept => exact next_unique h (execAccept_of_legal hl)
  | idle => exact next_unique h (execIdle_of_legal hl)
  | payloadRead a => exact next_unique h (execPayloadRead_eq a)

/-! The frame of each shared operation: the registers it may write. -/

theorem same_goto (hp : q ≠ .phase) (h : q.same s t) : q.same s (t.goto p) := by
  cases q <;> simp_all [Reg.same]

theorem same_setResult {k : ResultKind} (hv : q ≠ .resValid) (hk : q ≠ .resKind) (h : q.same s t) :
    q.same s (t.setResult k) := by
  cases q <;> simp_all [Reg.same]

theorem same_refl : q.same s s := by cases q <;> rfl

theorem same_clearIndex (hx : q ≠ .idxR) : q.same s s.clearIndex := by
  cases q <;> simp_all [Reg.same]

theorem same_loadLength (hl : q ≠ .lenR) (hc : q ≠ .chkR) : q.same s (s.loadLength b) := by
  cases q <;> simp_all [Reg.same]

theorem same_loadCommand (hm : q ≠ .cmdR) (hc : q ≠ .chkR) (hx : q ≠ .idxR) : q.same s (s.loadCommand b) := by
  cases q <;> simp_all [Reg.same]

theorem same_storePayload (hc : q ≠ .chkR) (hx : q ≠ .idxR) : q.same s (s.storePayload b) := by
  cases q <;> simp_all [Reg.same]

theorem same_clearResult (hv : q ≠ .resValid) : q.same s s.clearResult := by
  cases q <;> simp_all [Reg.same]

theorem same_driveReadAddress (a : Byte) : q.same s (s.driveReadAddress a) := by cases q <;> rfl

/-- The registers an instruction's operations write are listed for it in R21, so one not listed is left alone. -/
theorem effect_keeps_register (h : q.writtenBy i = false) : q.same s (s.effect i) := by
  have ne {q' : Reg} (hl : q'.writtenBy i = true) : q ≠ q' := fun hq => by simp [hq, hl] at h
  cases i with
  | wsDiscard b => exact same_refl
  | wsStart => exact same_goto (ne rfl) (same_clearIndex (ne rfl))
  | rlZero => exact same_goto (ne rfl) (same_loadLength (ne rfl) (ne rfl))
  | rlLen b => exact same_goto (ne rfl) (same_loadLength (ne rfl) (ne rfl))
  | rcLast b => exact same_goto (ne rfl) (same_loadCommand (ne rfl) (ne rfl) (ne rfl))
  | rcMore b => exact same_goto (ne rfl) (same_loadCommand (ne rfl) (ne rfl) (ne rfl))
  | rpMore b => exact same_storePayload (ne rfl) (ne rfl)
  | rpLast b => exact same_goto (ne rfl) (same_storePayload (ne rfl) (ne rfl))
  | rkMatch b => exact same_setResult (ne rfl) (ne rfl) (same_goto (ne rfl) same_refl)
  | rkMismatch b => exact same_setResult (ne rfl) (ne rfl) (same_goto (ne rfl) same_refl)
  | reset x y => cases q <;> cases h
  | accept => exact same_clearResult (ne rfl)
  | idle => exact same_refl
  | payloadRead a => exact same_driveReadAddress a

theorem effect_rdAddr (h : ∀ a, i ≠ .payloadRead a) : (s.effect i).rdAddr = s.rdAddr := by
  cases i with
  | payloadRead a => exact absurd rfl (h a)
  | _ => rfl

theorem effect_pending : (s.effect i).pending = s.pending := by cases i <;> rfl

/-- Settles O29: each instruction's effect is composed of operations that write only the registers R21 lists for it. -/
theorem registersKeepUnlessListed : Obligations.RegistersKeepUnlessListed := by
  intro i s t hl h
  obtain rfl := exec_next_eq_effect (phaseLegal_iff_toNat_le.mpr hl) h
  exact ⟨fun _ => effect_keeps_register, effect_rdAddr, effect_pending⟩

/-! ### The transition table -/

/-- A move that consumes no byte and does not reset leaves a legal phase. -/
theorem react_phase_of_no_byte (hl : phaseLegal s.phase = true) (h : react m s = .next t) (hc : s.consumed m = none)
    (hm : m.isReset = false) : t.phase = s.phase := by
  rcases react_cases hl h with
    ⟨e, rfl, hr, -⟩ | ⟨e, rfl, hx, -⟩ | ⟨_, _, _, rfl⟩ | ⟨_, _, rfl⟩ | ⟨_, _, rfl⟩
  · simp [Stimulus.isReset, hr] at hm
  · simp [State.consumed, hx] at hc
  · rfl
  · rfl
  · rfl

/-- Settles O39: each row of the table is the phase its operation goes to; no other move writes the phase. -/
theorem phaseTransitionTable : Obligations.PhaseTransitionTable := by
  refine ⟨fun b s t r h => ?_, fun m s t hl h => react_phase_of_no_byte (phaseLegal_iff_toNat_le.mpr hl) h⟩
  have ready {p : Phase} (hp : s.phase = p.code) : s.readyIn p = true := readyIn_of_feed h hp
  refine ⟨fun hp hb => ?_, fun hp hb => ?_, fun hp hb => ?_, fun hp hb => ?_, fun hp h1 => ?_, fun hp h2 => ?_,
    fun hp hm => ?_, fun hp hl => ?_, fun hp => ?_⟩
  · rwa [feed_state_unique h (feed_waitStart_discard (ready hp) hb)]
  · subst hb
    rw [feed_state_unique h (feed_waitStart_start (ready hp))]
    rfl
  · subst hb
    rw [feed_state_unique h (feed_readLength_zero (ready hp))]
    rfl
  · rw [feed_state_unique h (feed_readLength_len (ready hp) hb)]
    rfl
  · rw [feed_state_unique h (feed_readCommand_last (ready hp) h1)]
    rfl
  · have h1 : s.lenR ≠ 1#8 := fun h1 => by simp [h1] at h2
    rw [feed_state_unique h (feed_readCommand_more (ready hp) h1)]
    rfl
  · rwa [feed_state_unique h (feed_readPayload_more (ready hp) hm)]
  · rw [feed_state_unique h (feed_readPayload_last (ready hp) hl)]
    rfl
  · by_cases hc : b = s.chkR
    · rw [feed_state_unique h (feed_readChecksum_match (ready hp) hc)]
      rfl
    · rw [feed_state_unique h (feed_readChecksum_mismatch (ready hp) hc)]
      rfl

end Sys2Proof.Machine
end

section
/-! PROOFS. The memory family: which operation writes the payload buffer and where (O30, O34), what the read port shows
(O19, O52), and the delivered slice (O53). -/

namespace Sys2Proof.Machine

variable {s t : State} {b : Byte} {m : Stimulus} {i : Instr}

/-! ### Who writes the buffer -/

theorem readyIn_of_illegal (hl : phaseLegal s.phase = false) (p : Phase) : s.readyIn p = false := by
  rw [← Bool.not_eq_true, readyIn_iff]
  rintro ⟨hp, -⟩
  simp [hp, phaseLegal_code] at hl

/-- Under an illegal phase code every byte operation is refused, and the recovery keeps the buffer (spec/10_state.md
R23). -/
theorem exec_buf_of_illegal (hl : phaseLegal s.phase = false) (h : exec i s = .next t) : t.buf = s.buf := by
  cases i with
  | reset x y => rw [next_unique h (execReset_eq x y)]; rfl
  | accept => rw [next_unique h (execAccept_of_illegal hl)]; rfl
  | idle => rw [next_unique h (execIdle_of_illegal hl)]; rfl
  | payloadRead a => rw [next_unique h (execPayloadRead_eq a)]; rfl
  | _ =>
    simp [execWsDiscard_next, execWsStart_next, execRlZero_next, execRlLen_next, execRcLast_next, execRcMore_next,
      execRpMore_next, execRpLast_next, execRkMatch_next, execRkMismatch_next, readyIn_of_illegal hl] at h

theorem effect_buf (hi : storesPayload i = false) : (s.effect i).buf = s.buf := by
  cases i with
  | rpMore b | rpLast b => cases hi
  | _ => rfl

/-- Only the two payload operations write the buffer (spec/20_memory.md R41). -/
theorem exec_buf_of_not_stores (hi : storesPayload i = false) (h : exec i s = .next t) : t.buf = s.buf := by
  cases hl : phaseLegal s.phase with
  | true => rw [exec_next_eq_effect hl h, effect_buf hi]
  | false => exact exec_buf_of_illegal hl h

/-- An instruction keeps the buffer, or it runs in ReadPayload and writes the entry the index names. -/
theorem exec_buf_cases (h : exec i s = .next t) :
    t.buf = s.buf ∨ s.readyIn .readPayload = true ∧ ∃ b, t.buf = s.buf.write s.idxR.toNat b := by
  cases hi : storesPayload i with
  | false => exact .inl (exec_buf_of_not_stores hi h)
  | true =>
    cases i with
    | rpMore b =>
      obtain ⟨hr, -, rfl⟩ := execRpMore_next.mp h
      exact .inr ⟨hr, b, rfl⟩
    | rpLast b =>
      obtain ⟨hr, -, rfl⟩ := execRpLast_next.mp h
      exact .inr ⟨hr, b, rfl⟩
    | _ => cases hi

theorem exists_exec_of_react (h : react m s = .next t) : ∃ i, exec i s = .next t := by
  cases hn : nextInstr m s with
  | ok i => exact ⟨i, (react_of_nextInstr hn).symm.trans h⟩
  | error _ => simp [react, hn] at h

theorem react_buf_cases (h : react m s = .next t) :
    t.buf = s.buf ∨ s.readyIn .readPayload = true ∧ ∃ b, t.buf = s.buf.write s.idxR.toNat b := by
  obtain ⟨i, hx⟩ := exists_exec_of_react h
  exact exec_buf_cases hx

/-- A byte in ReadPayload is stored at the index, last byte or not, and the driven address stays. -/
theorem feed_readPayload_stores (b : Byte) (hr : s.readyIn .readPayload = true) :
    ∃ t, feed b s = some (t, none) ∧ t.buf = s.buf.write s.idxR.toNat b ∧ t.rdAddr = s.rdAddr := by
  by_cases hlast : s.idxR.toNat + 2 = s.lenR.toNat
  · exact ⟨_, feed_readPayload_last hr hlast, rfl, rfl⟩
  · exact ⟨_, feed_readPayload_more hr hlast, rfl, rfl⟩

/-- Settles O30: a payload byte is one buffer write at the old index, and no other instruction writes the buffer. -/
theorem onlyPayloadBytesWriteBuffer : Obligations.OnlyPayloadBytesWriteBuffer := by
  refine ⟨fun b s t r hp h => ?_, fun i s t hmore hlast h a => ?_⟩
  · obtain ⟨u, hu, hbuf, -⟩ := feed_readPayload_stores b (readyIn_of_feed (p := .readPayload) h hp)
    rw [feed_state_unique h hu, hbuf]
    exact ⟨Memory.read_write_same _ _ _, fun a ha => Memory.read_write_other _ _ ha⟩
  · have hi : storesPayload i = false := by
      cases i with
      | rpMore b => exact absurd rfl (hmore b)
      | rpLast b => exact absurd rfl (hlast b)
      | _ => rfl
    rw [exec_buf_of_not_stores hi h]

theorem read_react_of_ge_254 (hi : Inv s) (h : react m s = .next t) {a : Nat} (ha : 254 ≤ a) :
    t.buf.read a = s.buf.read a := by
  rcases react_buf_cases h with hkeep | ⟨hr, b, hwrite⟩
  · rw [hkeep]
  · have hidx := (hi.readPayload ((readyIn_iff s _).mp hr).1).1
    have hlen := s.lenR.isLt
    rw [hwrite, Memory.read_write_other _ _ (by omega)]

/-- Settles O34: a write needs ReadPayload, where the invariant keeps `idx_r + 2` within the length byte. -/
theorem writesStayBelow254 : Obligations.WritesStayBelow254 := by
  intro s t hi h a ha
  exact read_react_of_ge_254 (inv_popStimulus hi) h ha

/-! ### The read port -/

/-- Settles O19: a read only drives its address. -/
theorem payloadReadShowsEntry : Obligations.PayloadReadShowsEntry := by
  intro a s
  exact ⟨rfl, execPayloadRead_eq a, react_read a, rfl, execPayloadRead_eq a⟩

/-- A pending result blocks every buffer write: no byte is consumed (spec/20_memory.md R52). -/
theorem react_buf_of_pending (hv : s.resValid = true) (h : react m s = .next t) : t.buf = s.buf := by
  rcases react_buf_cases h with hkeep | ⟨hr, -⟩
  · exact hkeep
  · simp [((readyIn_iff s _).mp hr).2] at hv

/-- Settles O52: the edge's write shows on `rd_data` after the edge only, and a pending result blocks writes. -/
theorem readInWriteCycleShowsOldByte : Obligations.ReadInWriteCycleShowsOldByte := by
  refine ⟨fun s e hp hv hr hin ha => ?_, fun s t m => react_buf_of_pending⟩
  have hx : s.xferIn e = true := xferIn_iff.mpr ⟨hin, hr, hv, hp ▸ phaseLegal_code .readPayload⟩
  obtain ⟨t, hf, hbuf, haddr⟩ := feed_readPayload_stores e.inData ((readyIn_iff s .readPayload).mpr ⟨hp, hv⟩)
  refine ⟨t, react_of_feed hx hf, by rw [State.rdData, ha], ?_⟩
  rw [State.rdData, hbuf, haddr, ha, Memory.read_write_same]

/-! ### The delivered slice -/

theorem result_of_frame (hv : s.resValid = true) (hk : s.resKind = .frame) :
    s.result = some (.frame s.resCmd s.resLen s.payload) := by
  simp [State.result, hv, hk, State.resCmd, State.resLen]

theorem result_of_chkErr (hv : s.resValid = true) (hk : s.resKind = .chkErr) :
    s.result = some (.chkErr s.resCmd s.resLen) := by
  simp [State.result, hv, hk, State.resCmd, State.resLen]

theorem length_payload : s.payload.length = s.lenR.toNat - 1 := length_payloadPrefix s _

theorem getElem_payload {k : Nat} (h : k < s.payload.length) : s.payload[k] = s.buf.read k := by
  simp [State.payload, State.payloadPrefix]

theorem rdData_driveReadAddress (a : Byte) : (s.driveReadAddress a).rdData = s.buf.read a.toNat := rfl

/-- Settles O53: payload byte `k` is buffer entry `k`, which is what the port shows at address `k`. -/
theorem deliveredSliceReadsBuffer : Obligations.DeliveredSliceReadsBuffer := by
  intro s
  refine ⟨fun hv hk => ⟨s.payload, result_of_frame hv hk, length_payload, fun a ha t h => ?_⟩, result_of_chkErr,
    result_of_none⟩
  rw [next_unique h (execPayloadRead_eq a), rdData_driveReadAddress, getElem_payload ha]

end Sys2Proof.Machine
end

section
/-! PROOFS. The encoding family: the layout of a wire frame (O51). -/

namespace Sys2Proof.Machine

variable {k c : Byte} {ps : List Byte}

/-! ### The length byte -/

/-- Up to 254 payload bytes the length byte counts them and the command without wrapping (spec/30_encoding.md R62). -/
theorem toNat_lengthByte (hps : ps.length ≤ 254) : (lengthByte ps).toNat = ps.length + 1 :=
  (BitVec.toNat_ofNat _ _).trans (Nat.mod_eq_of_lt (by omega))

/-! ### The offsets of a wire frame, whatever byte stands in the checksum's place -/

@[simp] theorem length_frameWithChecksum : (frameWithChecksum k c ps).length = ps.length + 4 := by
  simp [frameWithChecksum]

theorem frameWithChecksum_marker : (frameWithChecksum k c ps)[0]? = some 0xAA#8 := rfl

theorem frameWithChecksum_lengthByte : (frameWithChecksum k c ps)[1]? = some (lengthByte ps) := rfl

theorem frameWithChecksum_command : (frameWithChecksum k c ps)[2]? = some c := rfl

/-- From offset 3 on a frame is its payload, then the byte in the checksum's place. -/
theorem frameWithChecksum_tail (i : Nat) : (frameWithChecksum k c ps)[3 + i]? = (ps ++ [k])[i]? := by
  rw [Nat.add_comm]
  rfl

theorem frameWithChecksum_payload {i : Nat} (hi : i < ps.length) : (frameWithChecksum k c ps)[3 + i]? = ps[i]? := by
  rw [frameWithChecksum_tail, List.getElem?_append_left hi]

theorem frameWithChecksum_checksum : (frameWithChecksum k c ps)[3 + ps.length]? = some k := by
  rw [frameWithChecksum_tail, List.getElem?_concat_length]

/-- Settles O51: the offsets hold for any checksum byte, and the length byte does not wrap at 254 payload bytes. -/
theorem wireFrameLayout : Obligations.WireFrameLayout := by
  intro c ps hps
  have hlen : (lengthByte ps).toNat = ps.length + 1 := toNat_lengthByte hps
  have hcount : (frameBytes c ps).length = (lengthByte ps).toNat + 3 := by
    rw [frameBytes, length_frameWithChecksum, hlen]
  exact ⟨frameWithChecksum_marker,
    ⟨lengthByte ps, frameWithChecksum_lengthByte, hlen, by omega, by omega, frameWithChecksum_checksum, hcount⟩,
    frameWithChecksum_command, fun _ => frameWithChecksum_payload⟩

end Sys2Proof.Machine
end

section
/-! PROOFS. The frame family, frames in progress: how a run of bytes composes, what the registers hold while a frame is
being read (`InFrame`), and the result its checksum byte gives. -/

namespace Sys2Proof.Machine

variable {s t u : State} {b c k n : Byte} {bs bs' ps : List Byte} {r : Option Result} {rs rs' : List Result}

/-! ### Runs of bytes -/

theorem ready_of_phase {p : Phase} (hp : s.phase = p.code) (hv : s.resValid = false) : s.readyIn p = true :=
  (readyIn_iff s p).mpr ⟨hp, hv⟩

theorem phase_of_ready {p : Phase} (hr : s.readyIn p = true) : s.phase = p.code := ((readyIn_iff s p).mp hr).1

theorem resValid_of_ready {p : Phase} (hr : s.readyIn p = true) : s.resValid = false := ((readyIn_iff s p).mp hr).2

theorem ne_code_of_illegal : ∀ {c : BitVec 3}, phaseLegal c = false →
    c ≠ 0b000#3 ∧ c ≠ 0b001#3 ∧ c ≠ 0b010#3 ∧ c ≠ 0b011#3 ∧ c ≠ 0b100#3 := by decide

theorem decode_opWord_of_illegal (hl : phaseLegal s.phase = false) (g : Guards) :
    decode (.byteOp (s.opWord b)) g = .error .illegalPhase := by
  simp [State.opWord, decode_byteWord, ne_code_of_illegal hl]

/-- A byte is consumed exactly as its decoded operation completes, and its result is the one then pending
(spec/40_frame_decode.md R80). -/
theorem feed_eq_some_iff : feed b s = some (t, r) ↔ s.resValid = false ∧
    ∃ i, decode (.byteOp (s.opWord b)) s.guards = .ok i ∧ exec i s = .next t ∧ r = t.result := by
  constructor
  · intro h
    obtain ⟨hv, hl⟩ := ready_of_feed h
    cases hd : decode (.byteOp (s.opWord b)) s.guards with
    | error _ => simp [feed, hv, hl, hd] at h
    | ok i =>
      cases he : exec i s with
      | next v =>
        obtain ⟨rfl, rfl⟩ : v = t ∧ v.result = r := by simpa [feed, hv, hl, hd, he] using h
        exact ⟨hv, i, rfl, he, rfl⟩
      | fault f => exact absurd he (exec_ne_fault i f)
      | refused _ => simp [feed, hv, hl, hd, he] at h
  · rintro ⟨hv, i, hd, he, rfl⟩
    have hl : phaseLegal s.phase = true := by
      by_contra hl
      simp [decode_opWord_of_illegal (Bool.not_eq_true _ ▸ hl)] at hd
    simp [feed, hv, hl, hd, he]

theorem result_of_feed (h : feed b s = some (t, r)) : r = t.result := by
  obtain ⟨-, -, -, -, hr⟩ := feed_eq_some_iff.mp h
  exact hr

/-- A byte without a result leaves nothing to accept. -/
theorem resValid_of_feed_none (h : feed b s = some (t, none)) : t.resValid = false := by
  rw [← result_isSome, ← result_of_feed h]
  rfl

theorem feedAll_cons_none (h : feed b s = some (t, none)) : feedAll (b :: bs) s = feedAll bs t := by
  rw [feedAll_cons h, clearResult_of_none (resValid_of_feed_none h)]
  simp

theorem feedAll_then (h : feedAll bs s = some (t, rs)) (h' : feedAll bs' t = some (u, rs')) :
    feedAll (bs ++ bs') s = some (u, rs ++ rs') := by
  simp [feedAll_append, h, h']

/-- In WaitStart bytes other than the start marker change nothing (spec/40_frame_decode.md R82). -/
theorem feedAll_garbage (hr : s.readyIn .waitStart = true) (hg : 0xAA#8 ∉ bs) : feedAll bs s = some (s, []) := by
  induction bs with
  | nil => rfl
  | cons b bs ih =>
    obtain ⟨hb, hbs⟩ := List.ne_and_not_mem_of_not_mem_cons hg
    rw [feedAll_cons_none (feed_waitStart_discard hr hb.symm), ih hbs]

/-! ### A frame in progress -/

/-- The registers and the buffer hold length `n`, command `c` and the payload bytes `ps`: the checksum register is the
closed form of spec/40_frame_decode.md R94 over them. -/
structure HoldsFrame (n c : Byte) (ps : List Byte) (s : State) : Prop where
  lenR : s.lenR = n
  cmdR : s.cmdR = c
  idxR : s.idxR.toNat = ps.length
  chkR : s.chkR = n ^^^ c ^^^ xorBytes ps
  stored : s.payloadPrefix ps.length = ps

/-- The decoder has consumed the start marker, the length `n`, the command `c` and the payload bytes `ps`, and at least
the checksum byte is still to come. -/
structure InFrame (n c : Byte) (ps : List Byte) (s : State) : Prop extends HoldsFrame n c ps s where
  short : ps.length < n.toNat
  ready : s.readyIn (if ps.length + 1 = n.toNat then .readChecksum else .readPayload) = true

theorem HoldsFrame.goto (h : HoldsFrame n c ps s) (p : Phase) : HoldsFrame n c ps (s.goto p) :=
  ⟨h.lenR, h.cmdR, h.idxR, h.chkR, h.stored⟩

theorem payloadPrefix_storePayload :
    (s.storePayload b).payloadPrefix (s.idxR.toNat + 1) = s.payloadPrefix s.idxR.toNat ++ [b] := by
  have hprefix : (s.storePayload b).payloadPrefix s.idxR.toNat = s.payloadPrefix s.idxR.toNat :=
    payloadPrefix_congr fun k hk => Memory.read_write_other _ _ (Nat.ne_of_lt hk)
  rw [payloadPrefix_succ, hprefix, storePayload_buf, Memory.read_write_same]

theorem HoldsFrame.storePayload (h : HoldsFrame n c ps s) (hlt : ps.length + 1 < n.toNat) :
    HoldsFrame n c (ps ++ [b]) (s.storePayload b) where
  lenR := h.lenR
  cmdR := h.cmdR
  idxR := by
    have hroom : s.idxR.toNat + 2 ≤ s.lenR.toNat := by rw [h.idxR, h.lenR]; omega
    rw [storePayload_idxR, toNat_idxR_succ hroom, h.idxR, List.length_append, List.length_singleton]
  chkR := by
    rw [storePayload_chkR, h.chkR, xorBytes_append, xorBytes_cons, xorBytes_nil, BitVec.xor_zero, BitVec.xor_assoc]
  stored := by
    rw [List.length_append, List.length_singleton, ← h.idxR, payloadPrefix_storePayload, h.idxR, h.stored]

/-- A length byte other than 0x00 is loaded into `len_r` and `chk_r`, and the command byte is next
(spec/40_frame_decode.md R85). -/
theorem feed_readLength_loads (hr : s.readyIn .readLength = true) (hn : n ≠ 0x00#8) :
    ∃ t, feed n s = some (t, none) ∧ t.readyIn .readCommand = true ∧ t.lenR = n ∧ t.chkR = n :=
  ⟨_, feed_readLength_len hr hn, ready_of_phase rfl (resValid_of_ready (s := s) hr), rfl, rfl⟩

/-- The command byte after a length byte `1 ≤ n` begins the frame's body (spec/40_frame_decode.md R86, R87). -/
theorem inFrame_of_command (hr : s.readyIn .readCommand = true) (hlen : s.lenR = n) (hchk : s.chkR = n)
    (hn : 1 ≤ n.toNat) (c : Byte) : ∃ t, feed c s = some (t, none) ∧ InFrame n c [] t := by
  have hv := resValid_of_ready hr
  have hold : HoldsFrame n c [] (s.loadCommand c) := ⟨hlen, rfl, rfl, by simp [hchk, xorBytes_nil], rfl⟩
  by_cases h1 : n = 1#8
  · refine ⟨_, feed_readCommand_last hr (hlen.trans h1), hold.goto _, hn, ?_⟩
    simp [readyIn_iff, h1, hv]
  · have hne : 1 ≠ n.toNat := by bv_omega
    refine ⟨_, feed_readCommand_more hr (hlen ▸ h1), hold.goto _, hn, ?_⟩
    simp [readyIn_iff, hne, hv]

/-- A payload byte is appended to the frame (spec/40_frame_decode.md R88, R89). -/
theorem InFrame.payloadByte (h : InFrame n c ps s) (hlt : ps.length + 1 < n.toNat) (b : Byte) :
    ∃ t, feed b s = some (t, none) ∧ InFrame n c (ps ++ [b]) t := by
  have hr : s.readyIn .readPayload = true := by simpa [Nat.ne_of_lt hlt] using h.ready
  have hv := resValid_of_ready hr
  have hold : HoldsFrame n c (ps ++ [b]) (s.storePayload b) := h.toHoldsFrame.storePayload hlt
  by_cases hlast : ps.length + 2 = n.toNat
  · have hguard : s.idxR.toNat + 2 = s.lenR.toNat := by rw [h.idxR, h.lenR, hlast]
    refine ⟨_, feed_readPayload_last hr hguard, hold.goto _, by simpa using hlt, ?_⟩
    simp [readyIn_iff, hlast, hv]
  · have hguard : s.idxR.toNat + 2 ≠ s.lenR.toNat := by rwa [h.idxR, h.lenR]
    refine ⟨_, feed_readPayload_more hr hguard, hold, by simpa using hlt, ?_⟩
    simpa [readyIn_iff, hlast] using (readyIn_iff s _).mp hr

/-- Payload bytes that leave room for the checksum byte give no result. -/
theorem InFrame.payloadBytes (h : InFrame n c ps s) (hlt : ps.length + bs.length < n.toNat) :
    ∃ t, feedAll bs s = some (t, []) ∧ InFrame n c (ps ++ bs) t := by
  induction bs generalizing ps s with
  | nil => exact ⟨s, rfl, by simpa using h⟩
  | cons b bs ih =>
    rw [List.length_cons] at hlt
    obtain ⟨t, hf, ht⟩ := h.payloadByte (by omega) b
    obtain ⟨u, hfs, hu⟩ := ih ht (by simp; omega)
    exact ⟨u, (feedAll_cons_none hf).trans hfs, by simpa using hu⟩

/-- What the checksum byte `k` makes of a frame with length `n`, command `c` and payload `ps`
(spec/40_frame_decode.md R90, R91). -/
def checksumResult (n c : Byte) (ps : List Byte) (k : Byte) : Result :=
  if k = n ^^^ c ^^^ xorBytes ps then .frame c n ps else .chkErr c n

/-- The checksum byte closes the frame with its one result, in WaitStart. -/
theorem InFrame.checksumByte (h : InFrame n c ps s) (hlen : ps.length + 1 = n.toNat) (k : Byte) :
    ∃ t, feedAll [k] s = some (t, [checksumResult n c ps k]) ∧ t.readyIn .waitStart = true ∧
      t.payloadPrefix ps.length = ps := by
  have hr : s.readyIn .readChecksum = true := by simpa [hlen] using h.ready
  have hpayload : s.payload = ps := by
    rw [State.payload, h.lenR, ← hlen, Nat.add_sub_cancel, h.stored]
  by_cases hk : k = s.chkR
  · refine ⟨((s.goto .waitStart).setResult .frame).clearResult, ?_, rfl, h.stored⟩
    rw [feedAll_cons (feed_readChecksum_match hr hk), checksumResult, if_pos (hk.trans h.chkR), h.cmdR, h.lenR,
      hpayload]
    rfl
  · refine ⟨((s.goto .waitStart).setResult .chkErr).clearResult, ?_, rfl, h.stored⟩
    rw [feedAll_cons (feed_readChecksum_mismatch hr hk), checksumResult, if_neg (h.chkR ▸ hk), h.cmdR, h.lenR]
    rfl

/-- As many bytes as the length byte still asks for close the frame with one result. -/
theorem InFrame.closes (h : InFrame n c ps s) (hlen : ps.length + bs.length = n.toNat) :
    ∃ t r, feedAll bs s = some (t, [r]) ∧ t.readyIn .waitStart = true := by
  have hne : bs ≠ [] := fun hb => by simp [hb] at hlen; exact absurd h.short (by omega)
  obtain ⟨qs, k, rfl⟩ := List.eq_nil_or_concat' bs |>.resolve_left hne
  rw [List.length_append, List.length_singleton] at hlen
  obtain ⟨t, ht, hin⟩ := h.payloadBytes (bs := qs) (by omega)
  obtain ⟨u, hu, hw, -⟩ := hin.checksumByte (by simp; omega) k
  exact ⟨u, _, feedAll_then ht hu, hw⟩

/-! ### The frame on the wire -/

/-- In WaitStart 0xAA starts a frame, and the length byte is next (spec/40_frame_decode.md R83). -/
theorem feed_startMarker (hr : s.readyIn .waitStart = true) :
    feed 0xAA#8 s = some (s.clearIndex.goto .readLength, none) := feed_waitStart_start hr

theorem ready_afterMarker (hr : s.readyIn .waitStart = true) :
    (s.clearIndex.goto .readLength).readyIn .readLength = true :=
  ready_of_phase rfl (resValid_of_ready (s := s) hr)

/-- From ReadLength: a length byte, the command, and payload bytes that leave room for the checksum byte. -/
theorem feedAll_frameBody (hr : s.readyIn .readLength = true) (c : Byte) (hlt : ps.length < n.toNat) :
    ∃ t, feedAll (n :: c :: ps) s = some (t, []) ∧ InFrame n c ps t := by
  have hn : n ≠ 0x00#8 := fun hn => by simp [hn] at hlt
  obtain ⟨t, ht, hcommand, hlen, hchk⟩ := feed_readLength_loads hr hn
  obtain ⟨u, hu, hin⟩ := inFrame_of_command hcommand hlen hchk (by omega) c
  obtain ⟨v, hv, hin'⟩ := hin.payloadBytes (bs := ps) (by simpa using hlt)
  exact ⟨v, by rw [feedAll_cons_none ht, feedAll_cons_none hu, hv], hin'⟩

/-- From WaitStart: a frame cut off before its checksum byte gives no result. -/
theorem feedAll_frameStart (hr : s.readyIn .waitStart = true) (c : Byte) (hlt : ps.length < n.toNat) :
    ∃ t, feedAll (0xAA#8 :: n :: c :: ps) s = some (t, []) ∧ InFrame n c ps t := by
  rw [feedAll_cons_none (feed_startMarker hr)]
  exact feedAll_frameBody (ready_afterMarker hr) c hlt

/-- A whole frame from WaitStart gives one result, on its last byte, and ends in WaitStart with the payload stored. -/
theorem feedAll_frame (hr : s.readyIn .waitStart = true) (c k : Byte) (hlen : ps.length + 1 = n.toNat) :
    ∃ t, feedAll (0xAA#8 :: n :: c :: (ps ++ [k])) s = some (t, [checksumResult n c ps k]) ∧
      t.readyIn .waitStart = true ∧ t.payloadPrefix ps.length = ps := by
  obtain ⟨t, ht, hin⟩ := feedAll_frameStart hr c (show ps.length < n.toNat by omega)
  obtain ⟨u, hu, hrest⟩ := hin.checksumByte hlen k
  exact ⟨u, feedAll_then ht hu, hrest⟩

end Sys2Proof.Machine
end

section
/-! PROOFS. The frame family, single bytes: exactly one row per word (O4), each byte operation (O6 to O15), where `feed`
is defined (O37), 0xAA as data (O46), and what the invariant says of the registers (O33, O35). -/

namespace Sys2Proof.Machine

variable {s t : State} {b : Byte} {c : BitVec 3} {g : Guards} {i : Instr} {p : Phase}

/-! ### Words and rows -/

theorem toNat_le_four_iff : c.toNat ≤ 4 ↔ ∃ p : Phase, c = p.code :=
  phaseLegal_iff_toNat_le.symm.trans (phaseLegal_iff c)

/-- Encoding a well-formed instruction whose guard holds loses nothing (spec/30_encoding.md section 2). -/
theorem decode_encode (hw : i.wf = true) (hg : i.guardHolds g = true) : decode (encode i) g = .ok i := by
  cases i with
  | wsDiscard b => rw [encode, decode_waitStart, if_neg (by simpa [Instr.wf] using hw)]
  | wsStart => rw [encode, decode_waitStart, if_pos rfl]
  | rlZero => rw [encode, decode_readLength, if_pos rfl]
  | rlLen b => rw [encode, decode_readLength, if_neg (by simpa [Instr.wf] using hw)]
  | rcLast b => rw [encode, decode_readCommand, if_pos (by simpa [Instr.guardHolds] using hg)]
  | rcMore b => rw [encode, decode_readCommand, if_neg (by simpa [Instr.guardHolds] using hg)]
  | rpMore b => rw [encode, decode_readPayload, if_neg (by simpa [Instr.guardHolds] using hg)]
  | rpLast b => rw [encode, decode_readPayload, if_pos (by simpa [Instr.guardHolds] using hg)]
  | rkMatch b => rw [encode, decode_readChecksum, if_pos (by simpa [Instr.guardHolds] using hg)]
  | rkMismatch b => rw [encode, decode_readChecksum, if_neg (by simpa [Instr.guardHolds] using hg)]
  | reset x y => rw [encode, decode_portWord, if_pos rfl]
  | accept => rfl
  | idle => rfl
  | payloadRead a => rfl

/-- Every phase and byte select a well-formed instruction whose guard holds, with that word as its encoding. -/
theorem exists_instr_of_word (p : Phase) (b : Byte) (g : Guards) :
    ∃ i : Instr, i.wf = true ∧ i.guardHolds g = true ∧ encode i = .byteOp (byteWord p.code b) := by
  cases p with
  | waitStart =>
    by_cases h : b = Config.startMarker
    · exact ⟨.wsStart, rfl, rfl, h ▸ rfl⟩
    · exact ⟨.wsDiscard b, by simpa [Instr.wf] using h, rfl, rfl⟩
  | readLength =>
    by_cases h : b = 0x00#8
    · exact ⟨.rlZero, rfl, rfl, h ▸ rfl⟩
    · exact ⟨.rlLen b, by simpa [Instr.wf] using h, rfl, rfl⟩
  | readCommand =>
    by_cases h : g.lenR = 1#8
    · exact ⟨.rcLast b, rfl, by simpa [Instr.guardHolds] using h, rfl⟩
    · exact ⟨.rcMore b, rfl, by simpa [Instr.guardHolds] using h, rfl⟩
  | readPayload =>
    by_cases h : lastPayloadByte g = true
    · exact ⟨.rpLast b, rfl, h, rfl⟩
    · exact ⟨.rpMore b, rfl, by simpa [Instr.guardHolds] using h, rfl⟩
  | readChecksum =>
    by_cases h : b = g.chkR
    · exact ⟨.rkMatch b, rfl, by simpa [Instr.guardHolds] using h, rfl⟩
    · exact ⟨.rkMismatch b, rfl, by simpa [Instr.guardHolds] using h, rfl⟩

/-- Which rows accept a word, row by row: the phase field selects two of them, and their guards exclude each other. -/
theorem length_accepting_rows (c : BitVec 3) (b : Byte) (g : Guards) :
    (byteRows.filter (ByteRow.accepts (byteWord c b) g)).length = if phaseLegal c then 1 else 0 := by
  rw [← List.countP_eq_length_filter]
  simp only [byteRows, List.countP_cons, List.countP_nil, ByteRow.accepts, byteField_byteWord, mask_waitStart,
    mask_readLength, mask_readCommand, mask_readPayload, mask_readChecksum, mask_startMarker, mask_zeroLength]
  cases hl : phaseLegal c with
  | false => simp [ne_code_of_illegal hl]
  | true =>
    obtain ⟨p, rfl⟩ := exists_code_of_legal hl
    cases p with
    | waitStart => by_cases h : b = Config.startMarker <;> simp [h, Phase.code]
    | readLength => by_cases h : b = 0x00#8 <;> simp [h, Phase.code]
    | readCommand => by_cases h : g.lenR = 1#8 <;> simp [h, Phase.code]
    | readPayload => cases h : lastPayloadByte g <;> simp [Phase.code]
    | readChecksum => by_cases h : b = g.chkR <;> simp [h, Phase.code]

/-- Settles O4: the rows are counted phase by phase, and an instruction with the word is the one the decoder gives. -/
theorem exactlyOneRowAccepts : Obligations.ExactlyOneRowAccepts := by
  intro c b g
  refine ⟨fun hc => ?_, fun hc => ?_⟩
  · obtain ⟨p, rfl⟩ := toNat_le_four_iff.mp hc
    obtain ⟨i, hw, hg, he⟩ := exists_instr_of_word p b g
    refine ⟨(length_accepting_rows _ b g).trans (by rw [phaseLegal_code, if_pos rfl]), i, ⟨hw, hg, he⟩,
      fun j hjw hjg hje => ?_⟩
    have hi := decode_encode hw hg
    have hj := decode_encode hjw hjg
    rw [he] at hi
    rw [hje] at hj
    exact Except.ok.inj (hj.symm.trans hi)
  · have hl : phaseLegal c = false := by
      rw [← Bool.not_eq_true, phaseLegal_iff_toNat_le]
      omega
    exact (length_accepting_rows c b g).trans (by rw [hl, if_neg Bool.false_ne_true])

/-! ### A byte of any value, phase by phase -/

/-- A length byte of any value is loaded. -/
theorem feed_readLength_any (hr : s.readyIn .readLength = true) (b : Byte) :
    ∃ q : Phase, q ≠ .readLength ∧ feed b s = some ((s.loadLength b).goto q, none) := by
  by_cases hb : b = 0x00#8
  · exact ⟨.waitStart, by decide, hb ▸ feed_readLength_zero hr⟩
  · exact ⟨.readCommand, by decide, feed_readLength_len hr hb⟩

/-- A command byte is loaded, whatever the length. -/
theorem feed_readCommand_any (hr : s.readyIn .readCommand = true) (b : Byte) :
    ∃ q : Phase, q ≠ .readLength ∧ feed b s = some ((s.loadCommand b).goto q, none) := by
  by_cases h1 : s.lenR = 1#8
  · exact ⟨.readChecksum, by decide, feed_readCommand_last hr h1⟩
  · exact ⟨.readPayload, by decide, feed_readCommand_more hr h1⟩

/-- A payload byte is stored, last or not. -/
theorem feed_readPayload_any (hr : s.readyIn .readPayload = true) (b : Byte) :
    ∃ q : Phase, q ≠ .readLength ∧ feed b s = some ((s.storePayload b).goto q, none) := by
  by_cases hlast : s.idxR.toNat + 2 = s.lenR.toNat
  · exact ⟨.readChecksum, by decide, feed_readPayload_last hr hlast⟩
  · have hstay : (s.storePayload b).goto .readPayload = s.storePayload b :=
      State.ext_fields (phase_of_ready hr).symm rfl rfl rfl rfl rfl rfl rfl rfl rfl
    exact ⟨.readPayload, by decide, by rw [hstay]; exact feed_readPayload_more hr hlast⟩

/-- A checksum byte gives a result, a FRAME exactly where it is the register's value. -/
theorem feed_readChecksum_any (hr : s.readyIn .readChecksum = true) (b : Byte) :
    ∃ (k : ResultKind) (x : Result), feed b s = some ((s.goto .waitStart).setResult k, some x) ∧
      (k = .frame ↔ b = s.chkR) := by
  by_cases hb : b = s.chkR
  · exact ⟨.frame, _, feed_readChecksum_match hr hb, by simp [hb]⟩
  · exact ⟨.chkErr, _, feed_readChecksum_mismatch hr hb, by simp [hb]⟩

/-! ### The byte operations -/

/-- Settles O6: the selected operation leaves the state as it is. -/
theorem wsDiscardWritesNothing : Obligations.WsDiscardWritesNothing := by
  intro b s hp hv hb
  have hr := ready_of_phase (p := .waitStart) hp hv
  exact ⟨decode_encode (i := .wsDiscard b) (bne_iff_ne.mpr hb) rfl, execWsDiscard_next.mpr ⟨hr, hb, rfl⟩,
    feed_waitStart_discard hr hb⟩

/-- 0xAA decodes to WS.START under the phase code of WaitStart only (spec/40_frame_decode.md R83, R93). -/
theorem decode_marker_eq_wsStart_iff (h : decode (.byteOp (byteWord c 0xAA#8)) g = .ok i) :
    i = .wsStart ↔ c = 0b000#3 := by
  rw [decode_byteWord, if_pos (show 0xAA#8 = Config.startMarker from rfl)] at h
  split_ifs at h with hc
  all_goals cases h
  all_goals simp [hc]

/-- Settles O7: the corner cases are the byte after the marker, fed in ReadLength. -/
theorem wsStartOpensFrame : Obligations.WsStartOpensFrame := by
  intro s hp hv
  have hr := ready_of_phase (p := .waitStart) hp hv
  have hlength := ready_afterMarker hr
  refine ⟨decode_encode (i := .wsStart) rfl rfl, execWsStart_next.mpr ⟨hr, rfl⟩, feed_startMarker hr,
    fun c g i => decode_marker_eq_wsStart_iff, fun b => ?_, ?_⟩
  · obtain ⟨p, -, hb⟩ := feed_readLength_any hlength b
    exact ⟨((s.clearIndex.goto .readLength).loadLength b).goto p,
      (feedAll_cons_none (feed_startMarker hr)).trans (feedAll_cons_none hb), rfl, rfl, rfl⟩
  · exact (feedAll_cons_none (feed_startMarker hr)).trans (feedAll_cons_none (feed_readLength_len hlength (by decide)))

/-- Settles O8: the byte after a zero length is parsed in WaitStart. -/
theorem rlZeroDropsFrame : Obligations.RlZeroDropsFrame := by
  intro s hp hv
  have hr := ready_of_phase (p := .readLength) hp hv
  have hw : ((s.loadLength 0x00#8).goto .waitStart).readyIn .waitStart = true := ready_of_phase rfl hv
  have hzero := feed_readLength_zero hr
  exact ⟨decode_encode (i := .rlZero) rfl rfl, execRlZero_next.mpr ⟨hr, rfl⟩, hzero,
    (feedAll_cons_none hzero).trans (feedAll_cons_none (feed_startMarker hw)),
    (feedAll_cons_none hzero).trans (feedAll_garbage hw (by decide))⟩

/-- Settles O9: the row's guard on its own byte is that it is not 0x00. -/
theorem rlLenLoadsLength : Obligations.RlLenLoadsLength := by
  intro b s hp hv hb
  have hr := ready_of_phase (p := .readLength) hp hv
  exact ⟨decode_encode (i := .rlLen b) (bne_iff_ne.mpr hb) rfl, execRlLen_next.mpr ⟨hr, hb, rfl⟩,
    feed_readLength_len hr hb⟩

/-- Settles O10: the invariant's row for ReadCommand makes `chk_r` the length 1 that the guard asks for. -/
theorem rcLastLoadsCommand : Obligations.RcLastLoadsCommand := by
  intro b s hp hv h1
  have hr := ready_of_phase (p := .readCommand) hp hv
  refine ⟨decode_encode (i := .rcLast b) rfl (beq_iff_eq.mpr h1), execRcLast_next.mpr ⟨hr, h1, rfl⟩,
    feed_readCommand_last hr h1, fun hi => ?_⟩
  obtain ⟨-, hchk, -⟩ := hi.readCommand hp
  rw [hchk, h1]

/-- Settles O11: the invariant's row for ReadCommand shuts out the length 0. -/
theorem rcMoreLoadsCommand : Obligations.RcMoreLoadsCommand := by
  intro b s hp hv h1
  have hr := ready_of_phase (p := .readCommand) hp hv
  refine ⟨decode_encode (i := .rcMore b) rfl (bne_iff_ne.mpr h1), execRcMore_next.mpr ⟨hr, h1, rfl⟩,
    feed_readCommand_more hr h1, fun hi => ?_⟩
  obtain ⟨hpos, -, -⟩ := hi.readCommand hp
  bv_omega

/-- Settles O12: the buffer after the step is the one write at the old index. -/
theorem rpMoreStoresByte : Obligations.RpMoreStoresByte := by
  intro b s hp hv hmore
  have hr := ready_of_phase (p := .readPayload) hp hv
  have hg : (Instr.rpMore b).guardHolds s.guards = true := by
    simpa [Instr.guardHolds, lastPayloadByte_guards] using hmore
  refine ⟨decode_encode (i := .rpMore b) rfl hg, ⟨s.buf.write s.idxR.toNat b, Memory.read_write_same _ _ _,
    fun a ha => Memory.read_write_other _ _ ha, execRpMore_next.mpr ⟨hr, hmore, rfl⟩, feed_readPayload_more hr hmore⟩,
    fun hi => ?_⟩
  obtain ⟨hroom, -⟩ := hi.readPayload hp
  exact ⟨by bv_omega, by bv_omega⟩

/-- Settles O13: as O12, and the guard makes the new index the payload count. -/
theorem rpLastStoresLastByte : Obligations.RpLastStoresLastByte := by
  intro b s hp hv hlast
  have hr := ready_of_phase (p := .readPayload) hp hv
  have hg : (Instr.rpLast b).guardHolds s.guards = true := beq_iff_eq.mpr hlast
  refine ⟨decode_encode (i := .rpLast b) rfl hg, ⟨s.buf.write s.idxR.toNat b, Memory.read_write_same _ _ _,
    fun a ha => Memory.read_write_other _ _ ha, execRpLast_next.mpr ⟨hr, hlast, rfl⟩, feed_readPayload_last hr hlast⟩,
    ?_⟩
  bv_omega

/-- Settles O14: the guard compares the byte with `chk_r`, and the result shows the registers and the slice. -/
theorem rkMatchDeliversFrame : Obligations.RkMatchDeliversFrame := by
  intro b s hp hv hb
  have hr := ready_of_phase (p := .readChecksum) hp hv
  exact ⟨decode_encode (i := .rkMatch b) rfl (beq_iff_eq.mpr hb), execRkMatch_next.mpr ⟨hr, hb, rfl⟩,
    feed_readChecksum_match hr hb⟩

/-- Settles O15: the other side of O14's guard takes the FramingError. -/
theorem rkMismatchReportsError : Obligations.RkMismatchReportsError := by
  intro b s hp hv hb
  have hr := ready_of_phase (p := .readChecksum) hp hv
  exact ⟨decode_encode (i := .rkMismatch b) rfl (bne_iff_ne.mpr hb), execRkMismatch_next.mpr ⟨hr, hb, rfl⟩,
    feed_readChecksum_mismatch hr hb⟩

/-! ### Where `feed` is defined -/

/-- A consumed byte in a phase: it gives a result in ReadChecksum only, and enters ReadLength from WaitStart only. -/
theorem exists_feed_of_ready (hr : s.readyIn p = true) (b : Byte) : ∃ t r, feed b s = some (t, r) ∧
    (r ≠ none ↔ p = .readChecksum) ∧ (t.phase = Phase.readLength.code → p = .waitStart) := by
  cases p with
  | waitStart =>
    by_cases hb : b = Config.startMarker
    · exact ⟨_, _, hb ▸ feed_waitStart_start hr, by simp, fun _ => rfl⟩
    · exact ⟨_, _, feed_waitStart_discard hr hb, by simp, fun _ => rfl⟩
  | readLength =>
    obtain ⟨q, hq, hf⟩ := feed_readLength_any hr b
    exact ⟨_, _, hf, by simp, by simp [hq]⟩
  | readCommand =>
    obtain ⟨q, hq, hf⟩ := feed_readCommand_any hr b
    exact ⟨_, _, hf, by simp, by simp [hq]⟩
  | readPayload =>
    obtain ⟨q, hq, hf⟩ := feed_readPayload_any hr b
    exact ⟨_, _, hf, by simp, by simp [hq]⟩
  | readChecksum =>
    obtain ⟨k, x, hf, -⟩ := feed_readChecksum_any hr b
    exact ⟨_, _, hf, by simp, by simp⟩

theorem length_of_result_frame {cmd n : Byte} {ps : List Byte} (h : s.result = some (.frame cmd n ps)) :
    ps.length = n.toNat - 1 := by
  have hv : s.resValid = true := by rw [← result_isSome, h]; rfl
  cases hk : s.resKind with
  | frame =>
    rw [result_of_frame hv hk] at h
    cases h
    exact length_payload
  | chkErr =>
    rw [result_of_chkErr hv hk] at h
    cases h

/-- Settles O37: each legal phase has an operation for every byte, and only ReadChecksum's give a result. -/
theorem feedDefinedExactlyWhenReady : Obligations.FeedDefinedExactlyWhenReady := by
  intro b s
  refine ⟨⟨fun h => ?_, fun ⟨hv, hl⟩ => ?_⟩, fun t r => feed_eq_some_iff, fun t r h => ⟨?_, ?_⟩⟩
  · obtain ⟨⟨t, r⟩, hf⟩ := Option.ne_none_iff_exists'.mp h
    obtain ⟨hv, hl⟩ := ready_of_feed hf
    exact ⟨hv, phaseLegal_iff_toNat_le.mp hl⟩
  · obtain ⟨p, hp⟩ := toNat_le_four_iff.mp hl
    obtain ⟨t, r, hf, -⟩ := exists_feed_of_ready (ready_of_phase hp hv) b
    simp [hf]
  · obtain ⟨p, hp⟩ := exists_code_of_legal (ready_of_feed h).2
    obtain ⟨t', r', hf, hres, -⟩ := exists_feed_of_ready (readyIn_of_feed h hp) b
    obtain ⟨rfl, rfl⟩ : t' = t ∧ r' = r := by simpa [hf] using h
    rw [hres, hp]
    exact code_inj.symm
  · rintro cmd n ps rfl
    exact length_of_result_frame (result_of_feed h).symm

/-! ### 0xAA inside a frame -/

/-- Settles O46: outside WaitStart 0xAA is the byte that each phase's operation loads, stores or compares. -/
theorem startMarkerIsDataInsideFrame : Obligations.StartMarkerIsDataInsideFrame := by
  intro s t r h
  have ready {p : Phase} (hp : s.phase = p.code) : s.readyIn p = true := readyIn_of_feed h hp
  refine ⟨fun hp => ?_, fun hp => ?_, fun hp => ?_, fun hp => ?_, fun hne ht => ?_⟩
  · obtain ⟨q, -, hf⟩ := feed_readLength_any (ready (p := .readLength) hp) 0xAA#8
    obtain ⟨rfl, rfl⟩ : _ = t ∧ none = r := by simpa [hf] using h
    exact ⟨rfl, rfl, rfl⟩
  · obtain ⟨q, -, hf⟩ := feed_readCommand_any (ready (p := .readCommand) hp) 0xAA#8
    obtain ⟨rfl, rfl⟩ : _ = t ∧ none = r := by simpa [hf] using h
    exact ⟨rfl, rfl, rfl⟩
  · obtain ⟨q, -, hf⟩ := feed_readPayload_any (ready (p := .readPayload) hp) 0xAA#8
    obtain ⟨rfl, rfl⟩ : _ = t ∧ none = r := by simpa [hf] using h
    exact ⟨by rw [goto_buf, storePayload_buf, Memory.read_write_same], rfl, rfl⟩
  · obtain ⟨k, x, hf, hk⟩ := feed_readChecksum_any (ready (p := .readChecksum) hp) 0xAA#8
    rw [feed_state_unique h hf]
    exact ⟨rfl, hk.trans eq_comm⟩
  · obtain ⟨p, hp⟩ := exists_code_of_legal (ready_of_feed h).2
    obtain ⟨u, r', hf, -, hstart⟩ := exists_feed_of_ready (ready hp) 0xAA#8
    obtain rfl := hstart (feed_state_unique h hf ▸ ht)
    exact hne hp

/-! ### What the invariant says of the registers -/

theorem inv_of_reachable (h : Reachable s) : Inv s := by
  induction h with
  | start m a ms hm => exact inv_resetWith hm a ms
  | step s t _ hst hi => exact invKeptByStep s t hi hst

/-- The checksum byte that passes is the checksum register's value. -/
theorem decode_readChecksum_match_iff :
    decode (.byteOp (byteWord Phase.readChecksum.code b)) g = .ok (.rkMatch b) ↔ b = g.chkR := by
  rw [decode_readChecksum]
  split <;> simp_all

/-- Settles O33: the invariant's row for ReadChecksum, at the payload count `len_r - 1`. -/
theorem checksumRegisterIsClosedForm : Obligations.ChecksumRegisterIsClosedForm := by
  intro s hs hp
  obtain ⟨hlen, hchk⟩ := (inv_of_reachable hs).readChecksum hp
  have hform : s.chkR = s.closedForm (s.lenR.toNat - 1) := by rw [hlen, Nat.add_sub_cancel, hchk]
  refine ⟨hform, fun b => ?_⟩
  rw [hp]
  exact decode_readChecksum_match_iff.trans (Eq.congr_right hform)

/-- A length register that is not 0 does not wrap when the command byte is taken off. -/
theorem toNat_lenR_pred (h : 1 ≤ s.lenR.toNat) : (s.lenR - 1#8).toNat = s.lenR.toNat - 1 := by
  bv_omega

/-- Settles O35: in ReadPayload `idx_r + 2` is within the length byte, and elsewhere the length counts the command. -/
theorem arithmeticNeverWraps : Obligations.ArithmeticNeverWraps := by
  intro s hi
  refine ⟨fun hp => ?_, fun h => ?_⟩
  · obtain ⟨hroom, -⟩ := hi.readPayload hp
    have hlen := s.lenR.isLt
    exact ⟨by omega, toNat_idxR_succ hroom, by omega, by omega⟩
  · have hpos : 1 ≤ s.lenR.toNat := by
      rcases h with hp | hp | hv
      · exact (hi.readCommand hp).1
      · obtain ⟨hlen, -⟩ := hi.readChecksum hp
        omega
      · obtain ⟨-, hlen, -⟩ := hi.pendingResult hv
        omega
    exact ⟨hpos, toNat_lenR_pred hpos⟩

end Sys2Proof.Machine
end

section
/-! PROOFS. The frame family, streams of bytes: a whole frame (O40), what its checksum detects (O41, O42), the return to
WaitStart (O43), resynchronisation (O44) and corrupted length bytes (O45, O55). -/

namespace Sys2Proof.Machine

variable {s t : State} {b c k n d : Byte} {bs ps qs es : List Byte}

/-! ### A well-formed frame -/

theorem checksumResult_checksum : checksumResult (lengthByte ps) c ps (checksum c ps) = .frame c (lengthByte ps) ps :=
  if_pos rfl

/-- A frame of at most 254 payload bytes gives the one result that the byte in the checksum's place makes. -/
theorem feedAll_frameWithChecksum (hr : s.readyIn .waitStart = true) (hps : ps.length ≤ 254) (c k : Byte) :
    ∃ t, feedAll (frameWithChecksum k c ps) s = some (t, [checksumResult (lengthByte ps) c ps k]) ∧
      t.readyIn .waitStart = true ∧ t.payloadPrefix ps.length = ps :=
  feedAll_frame hr c k (toNat_lengthByte hps).symm

theorem feedAll_frameBytes (hr : s.readyIn .waitStart = true) (hps : ps.length ≤ 254) (c : Byte) :
    ∃ t, feedAll (frameBytes c ps) s = some (t, [.frame c (lengthByte ps) ps]) ∧
      t.readyIn .waitStart = true ∧ t.payloadPrefix ps.length = ps := by
  simpa [frameBytes, checksumResult_checksum] using feedAll_frameWithChecksum hr hps c (checksum c ps)

theorem dropLast_frameBytes : (frameBytes c ps).dropLast = 0xAA#8 :: lengthByte ps :: c :: ps :=
  List.dropLast_concat (l₁ := 0xAA#8 :: lengthByte ps :: c :: ps)

theorem read_of_payloadPrefix (h : s.payloadPrefix ps.length = ps) {i : Nat} (hi : i < ps.length) :
    s.buf.read i = ps[i] := by
  have hget : (s.payloadPrefix ps.length)[i]'(by simpa using hi) = s.buf.read i := by simp [State.payloadPrefix]
  rw [← hget]
  simp only [h]

/-- Settles O40: the payload bytes collect in the frame in progress, whose closed form is the checksum sent. -/
theorem frameDeliveredFaithfully : Obligations.FrameDeliveredFaithfully := by
  intro c ps s hps hp hv
  have hr := ready_of_phase (p := .waitStart) hp hv
  obtain ⟨t, ht, hw, hstored⟩ := feedAll_frameBytes hr hps c
  have hlen := toNat_lengthByte hps
  obtain ⟨u, hu, -⟩ := feedAll_frameStart (n := lengthByte ps) (ps := ps) hr c (by omega)
  exact ⟨t, u, ht, by rw [dropLast_frameBytes, hu], phase_of_ready hw, fun _ => read_of_payloadPrefix hstored⟩

/-! ### What the checksum detects -/

/-- A frame passes exactly when all its bytes after the marker cancel (spec/40_frame_decode.md R100). -/
theorem checksumResult_eq_syndrome : checksumResult n c ps k =
    if xorBytes (n :: c :: (ps ++ [k])) = 0x00#8 then .frame c n ps else .chkErr c n := by
  have hxor : xorBytes (n :: c :: (ps ++ [k])) = (n ^^^ c ^^^ xorBytes ps) ^^^ k := by
    simp only [xorBytes_cons, xorBytes_append, xorBytes_nil, BitVec.xor_zero, BitVec.xor_assoc]
  have hiff : k = n ^^^ c ^^^ xorBytes ps ↔ xorBytes (n :: c :: (ps ++ [k])) = 0x00#8 := by
    rw [hxor, BitVec.xor_eq_zero_iff, eq_comm]
  simp only [checksumResult, hiff]

theorem xorBytes_zipWith (h : es.length = ps.length) :
    xorBytes (List.zipWith (· ^^^ ·) ps es) = xorBytes ps ^^^ xorBytes es := by
  induction ps generalizing es with
  | nil => simp [List.length_eq_zero_iff.mp h, xorBytes_nil]
  | cons p ps ih =>
    cases es with
    | nil => cases h
    | cons e es =>
      rw [List.zipWith_cons_cons, xorBytes_cons, xorBytes_cons, xorBytes_cons, ih (by simpa using h)]
      ac_rfl

theorem xorBytes_set {i : Nat} (hi : i < ps.length) : xorBytes (ps.set i (ps[i] ^^^ d)) = xorBytes ps ^^^ d := by
  induction ps generalizing i with
  | nil => cases hi
  | cons p ps ih =>
    cases i with
    | zero =>
      simp only [List.set_cons_zero, List.getElem_cons_zero, xorBytes_cons]
      ac_rfl
    | succ i =>
      simp only [List.set_cons_succ, List.getElem_cons_succ, xorBytes_cons]
      rw [ih (by simpa using hi), BitVec.xor_assoc]

theorem xorBytes_perm (h : qs.Perm ps) : xorBytes qs = xorBytes ps := h.foldr_eq 0x00#8

theorem lengthByte_congr (h : qs.length = ps.length) : lengthByte qs = lengthByte ps := by
  rw [lengthByte, h, lengthByte]

/-- Payload `qs` and command `c ^ d` under the checksum of `c` and `ps` with `k` folded in: the frame passes exactly
when the differences cancel (spec/40_frame_decode.md R100). -/
theorem checksumResult_difference (hxor : xorBytes qs = xorBytes ps ^^^ b) :
    checksumResult (lengthByte ps) (c ^^^ d) qs (checksum c ps ^^^ k) =
      if d ^^^ b ^^^ k = 0x00#8 then .frame (c ^^^ d) (lengthByte ps) qs else .chkErr (c ^^^ d) (lengthByte ps) := by
  have hsum : lengthByte ps ^^^ (c ^^^ d) ^^^ xorBytes qs = checksum c ps ^^^ (d ^^^ b) := by
    rw [hxor, checksum]
    ac_rfl
  have hiff : checksum c ps ^^^ k = lengthByte ps ^^^ (c ^^^ d) ^^^ xorBytes qs ↔ d ^^^ b ^^^ k = 0x00#8 := by
    rw [hsum, BitVec.xor_right_inj, BitVec.xor_eq_zero_iff, eq_comm]
  simp only [checksumResult, hiff]

/-- Settles O42: one frame run, read through the syndrome, through the error pattern, and through the permutation. -/
theorem checksumDetectsNonzeroSyndrome : Obligations.ChecksumDetectsNonzeroSyndrome := by
  intro c k ps s hps hp hv
  have hr := ready_of_phase (p := .waitStart) hp hv
  refine ⟨?_, fun ec ek es hes => ?_, fun qs hqs => ?_⟩
  · obtain ⟨t, ht, hw, -⟩ := feedAll_frameWithChecksum hr hps c k
    exact ⟨t, checksumResult_eq_syndrome ▸ ht, phase_of_ready hw⟩
  · have hlen : (List.zipWith (· ^^^ ·) ps es).length = ps.length := by simp [hes]
    obtain ⟨t, ht, -⟩ := feedAll_frameWithChecksum hr (hlen ▸ hps) (c ^^^ ec) (checksum c ps ^^^ ek)
    rw [lengthByte_congr hlen, checksumResult_difference (xorBytes_zipWith hes)] at ht
    exact ⟨t, ht⟩
  · have hchecksum : checksum c ps = checksum c qs := by
      rw [checksum, checksum, lengthByte_congr hqs.length_eq, xorBytes_perm hqs]
    obtain ⟨t, ht, -⟩ := feedAll_frameBytes hr (hqs.length_eq ▸ hps) c
    rw [frameBytes, ← hchecksum, lengthByte_congr hqs.length_eq] at ht
    exact ⟨t, ht⟩

theorem one_shiftLeft_ne_zero : ∀ {bit : Nat}, bit < 8 → 1#8 <<< bit ≠ 0x00#8 := by decide

/-- Settles O41: the flipped bit is a difference that nothing cancels. -/
theorem payloadBitFlipIsRejected : Obligations.PayloadBitFlipIsRejected := by
  intro c ps i hi bit s hps hbit hp hv
  have hlen : (ps.set i (ps[i] ^^^ (1#8 <<< bit))).length = ps.length := List.length_set
  have hr := ready_of_phase (p := .waitStart) hp hv
  obtain ⟨t, ht, hw, -⟩ := feedAll_frameWithChecksum hr (hlen ▸ hps) c (checksum c ps)
  have hres := checksumResult_difference (c := c) (d := 0x00#8) (k := 0x00#8) (xorBytes_set (d := 1#8 <<< bit) hi)
  simp only [BitVec.xor_zero, BitVec.zero_xor, one_shiftLeft_ne_zero hbit, if_false] at hres
  rw [lengthByte_congr hlen, hres] at ht
  exact ⟨t, ht, phase_of_ready hw⟩

/-! ### Return to WaitStart -/

/-- Whatever the bytes, one of the first `m` prefixes ends in WaitStart, with at most one result on the way. -/
def ReturnsWithin (m : Nat) (s : State) : Prop :=
  ∀ bs : List Byte, m ≤ bs.length → ∃ k t rs, k ≤ m ∧ feedAll (bs.take k) s = some (t, rs) ∧
    t.readyIn .waitStart = true ∧ rs.length ≤ 1

theorem returnsWithin_of_waitStart (hr : s.readyIn .waitStart = true) (m : Nat) : ReturnsWithin m s :=
  fun _ _ => ⟨0, s, [], m.zero_le, rfl, hr, Nat.zero_le 1⟩

theorem ReturnsWithin.mono {m m' : Nat} (h : ReturnsWithin m s) (hm : m ≤ m') : ReturnsWithin m' s := by
  intro bs hbs
  obtain ⟨k, t, rs, hk, hrest⟩ := h bs (hm.trans hbs)
  exact ⟨k, t, rs, hk.trans hm, hrest⟩

/-- One byte more than from wherever a byte without a result leads. -/
theorem returnsWithin_succ {m : Nat} (h : ∀ b, ∃ t, feed b s = some (t, none) ∧ ReturnsWithin m t) :
    ReturnsWithin (m + 1) s := by
  intro bs hbs
  cases bs with
  | nil => cases hbs
  | cons b bs =>
    obtain ⟨t, hf, ht⟩ := h b
    obtain ⟨k, u, rs, hk, hrun, hrest⟩ := ht bs (by simpa using hbs)
    exact ⟨k + 1, u, rs, by omega, by rw [List.take_succ_cons, feedAll_cons_none hf, hrun], hrest⟩

/-- A frame in progress returns after the bytes its length still asks for. -/
theorem InFrame.returnsWithin (h : InFrame n c ps s) : ReturnsWithin (n.toNat - ps.length) s := by
  intro bs hbs
  have hlen : ps.length + (bs.take (n.toNat - ps.length)).length = n.toNat := by
    have := h.short
    simp only [List.length_take]
    omega
  obtain ⟨t, r, hrun, hw⟩ := h.closes hlen
  exact ⟨_, t, [r], le_rfl, hrun, hw, le_rfl⟩

theorem returnsWithin_of_command (hr : s.readyIn .readCommand = true) (hchk : s.chkR = s.lenR)
    (hn : 1 ≤ s.lenR.toNat) : ReturnsWithin 256 s := by
  refine returnsWithin_succ fun c => ?_
  obtain ⟨t, ht, hin⟩ := inFrame_of_command hr rfl hchk hn c
  have hlt := s.lenR.isLt
  exact ⟨t, ht, hin.returnsWithin.mono (by simp; omega)⟩

theorem returnsWithin_of_length (hr : s.readyIn .readLength = true) : ReturnsWithin 257 s := by
  refine returnsWithin_succ fun n => ?_
  by_cases hn : n = 0x00#8
  · subst hn
    have hw : ((s.loadLength 0x00#8).goto .waitStart).readyIn .waitStart = true :=
      ready_of_phase rfl (resValid_of_ready (s := s) hr)
    exact ⟨_, feed_readLength_zero hr, returnsWithin_of_waitStart hw _⟩
  · obtain ⟨t, ht, hcommand, hlen, hchk⟩ := feed_readLength_loads hr hn
    exact ⟨t, ht, returnsWithin_of_command hcommand (hchk.trans hlen.symm) (by rw [hlen]; bv_omega)⟩

/-- In ReadPayload and ReadChecksum the invariant is that a frame is in progress, with the payload bytes received so far
in the buffer. -/
theorem inFrame_of_closedForm (hchk : s.chkR = s.closedForm s.idxR.toNat) (hlt : s.idxR.toNat < s.lenR.toNat)
    (hr : s.readyIn (if s.idxR.toNat + 1 = s.lenR.toNat then .readChecksum else .readPayload) = true) :
    InFrame s.lenR s.cmdR (s.payloadPrefix s.idxR.toNat) s :=
  ⟨⟨rfl, rfl, by simp, hchk, by simp⟩, by simpa using hlt, by simpa using hr⟩

theorem returnsWithin_returnBound (hi : Inv s) (hv : s.resValid = false) : ReturnsWithin (returnBound s) s := by
  obtain ⟨p, hp⟩ := exists_code_of_legal hi.legalPhase
  have hr : s.readyIn p = true := ready_of_phase hp hv
  cases p with
  | waitStart => exact returnsWithin_of_waitStart hr _
  | readLength => simpa [returnBound, hp] using returnsWithin_of_length hr
  | readCommand =>
    obtain ⟨hn, hchk, -⟩ := hi.readCommand hp
    simpa [returnBound, hp] using returnsWithin_of_command hr hchk hn
  | readPayload =>
    obtain ⟨hroom, hchk⟩ := hi.readPayload hp
    have hin := inFrame_of_closedForm hchk (by omega) (by rwa [if_neg (by omega)])
    simpa [returnBound, hp] using hin.returnsWithin
  | readChecksum =>
    obtain ⟨hlen, hchk⟩ := hi.readChecksum hp
    have hin := inFrame_of_closedForm hchk (by omega) (by rwa [if_pos hlen.symm])
    simpa [returnBound, hp, hlen] using hin.returnsWithin

theorem returnBound_le (s : State) : returnBound s ≤ 257 := by
  have := s.lenR.isLt
  unfold returnBound
  split_ifs <;> omega

theorem InFrame.phase_ne_waitStart (h : InFrame n c ps s) : s.phase ≠ 0b000#3 := by
  rw [phase_of_ready h.ready]
  split <;> decide

/-- A length byte 0xFF keeps the decoder busy up to the checksum byte, the 257th from ReadLength. -/
theorem phase_ne_waitStart_of_length255 (hr : s.readyIn .readLength = true) (hbs : bs.length ≤ 255)
    {rs : List Result} (h : feedAll (0xFF#8 :: bs) s = some (t, rs)) : t.phase ≠ 0b000#3 := by
  cases bs with
  | nil =>
    obtain ⟨u, hu, hcommand, -⟩ := feed_readLength_loads (n := 0xFF#8) hr (by decide)
    obtain ⟨rfl, -⟩ : u = t ∧ _ := by simpa [feedAll_cons_none hu, feedAll_nil] using h
    rw [phase_of_ready hcommand]
    decide
  | cons c ps =>
    rw [List.length_cons] at hbs
    obtain ⟨u, hu, hin⟩ := feedAll_frameBody (n := 0xFF#8) (ps := ps) hr c (by simp; omega)
    obtain ⟨rfl, -⟩ : u = t ∧ _ := by simpa [hu] using h
    exact hin.phase_ne_waitStart

/-- Settles O43: each phase's bound, from the frame the invariant says is in progress; 0xFF reaches the largest. -/
theorem returnsToWaitStartInBoundedBytes : Obligations.ReturnsToWaitStartInBoundedBytes := by
  refine ⟨fun s bs hi hv hlen => ?_, returnBound_le, fun s bs hp hv hbs k t rs hk h => ?_⟩
  · obtain ⟨k, t, rs, hk, hrun, hw, -⟩ := returnsWithin_returnBound hi hv bs hlen.ge
    exact ⟨k, t, rs, hlen ▸ hk, hrun, phase_of_ready hw⟩
  · cases k with
    | zero =>
      obtain ⟨rfl, -⟩ : s = t ∧ _ := by simpa [feedAll_nil] using h
      simp [hp]
    | succ k =>
      have hr : s.readyIn .readLength = true := ready_of_phase hp hv
      exact phase_ne_waitStart_of_length255 hr (by simp; omega) (List.take_succ_cons ▸ h)

/-! ### Resynchronisation -/

/-- Settles O44: garbage is discarded in WaitStart, and 257 bytes suffice to get there; a 0xAA just before a frame makes
the frame's own marker its length byte. -/
theorem resynchronisesAfterMarkerFreeGarbage : Obligations.ResynchronisesAfterMarkerFreeGarbage := by
  refine ⟨fun g c ps s hg hps hp hv => ?_, fun g c ps s hg hlen hps hi hv => ?_, fun s hp hv => ?_⟩
  · have hr := ready_of_phase (p := .waitStart) hp hv
    obtain ⟨t, ht, -⟩ := feedAll_frameBytes hr hps c
    exact ⟨t, feedAll_garbage hr hg, feedAll_then (feedAll_garbage hr hg) ht⟩
  · obtain ⟨k, u, rs, -, hu, hw, hrs⟩ := returnsWithin_returnBound hi hv g ((returnBound_le s).trans hlen)
    have hrest : 0xAA#8 ∉ g.drop k := fun h => hg (List.mem_of_mem_drop h)
    have hall : feedAll g s = some (u, rs) := by
      simpa using feedAll_then hu (feedAll_garbage hw hrest)
    obtain ⟨t, ht, -⟩ := feedAll_frameBytes hw hps c
    exact ⟨t, u, rs, hrs, hall, feedAll_then hall ht⟩
  · have hr := ready_of_phase (p := .waitStart) hp hv
    obtain ⟨t, ht, -⟩ := feedAll_frameStart (n := 0xAA#8) (ps := [0x11#8, 0x10#8]) hr 0x01#8 (by decide)
    exact ⟨[0xAA#8], 0x11#8, [], t, [], by simp, ht, by simp⟩

/-! ### A corrupted length byte -/

/-- A zero length drops the frame, and the bytes after it are parsed in WaitStart (spec/40_frame_decode.md R84). -/
theorem feedAll_zeroLength (hr : s.readyIn .waitStart = true) : feedAll (0xAA#8 :: 0x00#8 :: bs) s =
    feedAll bs ((s.clearIndex.loadLength 0x00#8).goto .waitStart) := by
  rw [feedAll_cons_none (feed_startMarker hr), feedAll_cons_none (feed_readLength_zero (ready_afterMarker hr))]
  rfl

/-- Settles O55: after the zero length the decoder is in WaitStart, where garbage is discarded and 0xAA starts a
frame. -/
theorem markerAfterZeroLengthStartsFrame : Obligations.MarkerAfterZeroLengthStartsFrame := by
  intro before s hb hp hv
  have hw : ((s.clearIndex.loadLength 0x00#8).goto .waitStart).readyIn .waitStart = true := ready_of_phase rfl hv
  rw [feedAll_zeroLength (ready_of_phase (p := .waitStart) hp hv)]
  exact feedAll_then (feedAll_garbage hw hb) (feedAll_cons_none (feed_waitStart_start hw))

/-- A length byte below the sent one ends the frame on payload byte `n - 1`, read as its checksum. -/
theorem feedAll_shortLength (hr : s.readyIn .waitStart = true) (c k : Byte) (hpos : 1 ≤ n.toNat)
    (hlt : n.toNat < ps.length + 1) :
    ∃ t, feedAll ((0xAA#8 :: n :: c :: (ps ++ [k])).take (n.toNat + 3)) s =
      some (t, [checksumResult n c (ps.take (n.toNat - 1)) (ps[n.toNat - 1])]) ∧ t.readyIn .waitStart = true := by
  have htake : (0xAA#8 :: n :: c :: (ps ++ [k])).take (n.toNat + 3) =
      0xAA#8 :: n :: c :: (ps.take (n.toNat - 1) ++ [ps[n.toNat - 1]]) := by
    rw [List.take_append_getElem, Nat.sub_add_cancel hpos]
    simp only [List.take_succ_cons]
    rw [List.take_append_of_le_length (by omega)]
  obtain ⟨t, ht, hw, -⟩ := feedAll_frame (n := n) (ps := ps.take (n.toNat - 1)) hr c ps[n.toNat - 1] (by simp; omega)
  exact ⟨t, htake ▸ ht, hw⟩

/-- Settles O45: zero drops the frame, a short length closes it early, a long one leaves it in progress until as many
bytes as it asks for have come. -/
theorem lengthByteDecidesFraming : Obligations.LengthByteDecidesFraming := by
  intro n c k ps s hps hp hv
  have hr := ready_of_phase (p := .waitStart) hp hv
  refine ⟨fun hn hg => ?_, fun hpos hlt => ?_, fun hlong => ?_⟩
  · subst hn
    rw [feedAll_zeroLength hr]
    exact ⟨_, feedAll_garbage (ready_of_phase rfl hv) hg, rfl⟩
  · obtain ⟨t, ht, hw⟩ := feedAll_shortLength hr c k hpos hlt
    refine ⟨t, _, ht, phase_of_ready hw, ?_⟩
    simp [checksumResult, List.getElem?_eq_getElem (show n.toNat - 1 < ps.length by omega)]
  · obtain ⟨t, ht, hin⟩ := feedAll_frameStart (n := n) (ps := ps ++ [k]) hr c (by simpa using hlong)
    refine ⟨t, ht, hin.phase_ne_waitStart, fun more hmore => ?_⟩
    obtain ⟨u, r, hu, hw⟩ := hin.closes (bs := more) (by simp [hmore]; omega)
    exact ⟨u, r, feedAll_then ht hu, phase_of_ready hw⟩

end Sys2Proof.Machine
end

section
/-! PROOFS. The interface family: `in_ready` (O26), the byte transfer (O27), the idle edge and the ACCEPT (O17, O18), and
the agreement of the cycle level with the transaction level (O48). -/

namespace Sys2Proof.Machine

variable {s t u : State} {b : Byte} {e e' : Edge} {m : Stimulus} {i : Instr} {p : Phase} {g : Guards}
  {r : Option Result} {bs bs' : List Byte} {rs rs' : List Result} {ms : List Stimulus}

/-! ### What an edge consumes, accepts and selects -/

theorem phaseLegal_iff_code : ∀ {c : BitVec 3}, phaseLegal c = true ↔
    c = 0b000#3 ∨ c = 0b001#3 ∨ c = 0b010#3 ∨ c = 0b011#3 ∨ c = 0b100#3 := by decide

theorem phaseLegal_eq_false : ∀ {c : BitVec 3}, 5 ≤ c.toNat → phaseLegal c = false := by decide

/-- Without a result there is nothing to accept (spec/41_interface.md R117). -/
theorem xferOut_of_no_result (hv : s.resValid = false) : s.xferOut e = false := by
  simp [State.xferOut, hv]

theorem consumed_of_transfer (hx : s.xferIn e = true) : s.consumed (.edge e) = some e.inData := if_pos hx

theorem consumed_of_no_transfer (hx : s.xferIn e = false) : s.consumed (.edge e) = none := by
  simp [State.consumed, hx]

theorem accepted_of_accept (hr : e.rst = false) (hl : phaseLegal s.phase = true) (ho : s.xferOut e = true) :
    s.accepted (.edge e) = s.result := by
  simp [State.accepted, hr, hl, ho]

theorem accepted_of_no_accept (ho : s.xferOut e = false) : s.accepted (.edge e) = none := by
  simp [State.accepted, ho]

/-- An edge's inputs matter only through the word they select. -/
theorem react_congr_selectedWord (h : s.selectedWord e = s.selectedWord e') : react (.edge e) s = react (.edge e') s := by
  simp only [react, nextInstr, h]

/-- `in_data` reaches the block at a byte transfer only (spec/41_interface.md R113). -/
theorem selectedWord_ignores_inData (hx : s.xferIn e = false) (d : Byte) :
    s.selectedWord { e with inData := d } = s.selectedWord e := by
  have hx' : s.xferIn { e with inData := d } = false := hx
  simp only [State.selectedWord, hx, hx', Bool.false_eq_true, if_false]
  rfl

/-- `res_ready` without a result selects nothing else (spec/41_interface.md R116). -/
theorem selectedWord_ignores_resReady (hv : s.resValid = false) (d : Bool) :
    s.selectedWord { e with resReady := d } = s.selectedWord e := by
  have hport : s.portVector { e with resReady := d } = s.portVector e := by
    simp only [State.portVector, xferOut_of_no_result hv]
    rfl
  simp only [State.selectedWord, hport]
  rfl

/-! ### `in_ready` and the byte transfer -/

/-- Settles O26: the legal codes are the five of R23, and the invariant keeps the phase legal. -/
theorem inReadyFormula : Obligations.InReadyFormula := by
  refine ⟨fun s r => ?_, fun s hs => (inv_of_reachable hs).legalPhase⟩
  rw [inReady_iff, phaseLegal_iff_code]

theorem exists_feed_of_transfer (hx : s.xferIn e = true) : ∃ t r, feed e.inData s = some (t, r) := by
  obtain ⟨-, -, hv, hl⟩ := xferIn_iff.mp hx
  obtain ⟨p, hp⟩ := exists_code_of_legal hl
  obtain ⟨t, r, hf, -⟩ := exists_feed_of_ready (ready_of_phase hp hv) e.inData
  exact ⟨t, r, hf⟩

theorem resValid_of_result {x : Result} (h : s.result = some x) : s.resValid = true := by
  rw [← result_isSome, h]
  rfl

/-- A FRAME result is shown by the flag FRAME. -/
theorem resKind_of_result_frame {c n : Byte} {ps : List Byte} (h : s.result = some (.frame c n ps)) :
    s.resKind = .frame := by
  cases hk : s.resKind with
  | frame => rfl
  | chkErr => simp [result_of_chkErr (resValid_of_result h) hk] at h

/-- A CHKERR result is shown by the flag CHKERR. -/
theorem resKind_of_result_chkErr {c n : Byte} (h : s.result = some (.chkErr c n)) : s.resKind = .chkErr := by
  cases hk : s.resKind with
  | frame => simp [result_of_frame (resValid_of_result h) hk] at h
  | chkErr => rfl

/-- Settles O27: a transferred byte is fed, its result is the one then pending, and only a transfer reads `in_data`. -/
theorem byteTransferIsFeed : Obligations.ByteTransferIsFeed := by
  intro s e
  refine ⟨fun _ hin hready => ?_, fun hno => ?_⟩
  · have hx : s.xferIn e = true := Bool.and_eq_true_iff.mpr ⟨hin, hready⟩
    obtain ⟨t, r, hf⟩ := exists_feed_of_transfer hx
    have hres : r = t.result := result_of_feed hf
    refine ⟨t, r, hf, react_of_feed hx hf, consumed_of_transfer hx, fun h => resValid_of_feed_none (h ▸ hf),
      fun c n ps h => ?_, fun c n h => ?_⟩
    · exact ⟨resValid_of_result (hres.symm.trans h), resKind_of_result_frame (hres.symm.trans h)⟩
    · exact ⟨resValid_of_result (hres.symm.trans h), resKind_of_result_chkErr (hres.symm.trans h)⟩
  · have hx : s.xferIn e = false := Bool.and_eq_false_iff.mpr hno
    exact ⟨consumed_of_no_transfer hx, fun d => react_congr_selectedWord (selectedWord_ignores_inData hx d)⟩

/-! ### ACCEPT and the idle edge -/

/-- Settles O17: with a result the edge is ACCEPT, and without one `res_ready` does not reach the selected word. -/
theorem acceptTakesPendingResult : Obligations.AcceptTakesPendingResult := by
  intro s e hp hr hready
  have hl : phaseLegal s.phase = true := phaseLegal_iff_toNat_le.mpr hp
  refine ⟨fun hv => ⟨execAccept_of_legal hl, react_accept hr hl (xferOut_iff.mpr ⟨hv, hready⟩),
    (inReady_iff _).mpr ⟨rfl, rfl, hl⟩, fun hi => (hi.pendingResult hv).1⟩, fun hv => ?_⟩
  exact (react_congr_selectedWord (selectedWord_ignores_resReady hv false)).symm

/-- Without `rst`, byte transfer or ACCEPT an edge selects IDLE, under an illegal phase code too
(spec/41_interface.md R118). -/
theorem nextInstr_idle (hr : e.rst = false) (hx : s.xferIn e = false) (ho : s.xferOut e = false) :
    nextInstr (.edge e) s = .ok .idle := by
  cases hl : phaseLegal s.phase with
  | true => rw [nextInstr_port hr hl hx, ho, if_neg Bool.false_ne_true]
  | false => exact nextInstr_illegal hr hl

theorem cycleRun_cons (hm : react m s = .next t) (h : cycleRun ms t = some (u, bs, rs)) :
    cycleRun (m :: ms) s = some (u, (s.consumed m).toList ++ bs, (s.accepted m).toList ++ rs) := by
  simp [cycleRun, hm, h]

/-- A move that changes, consumes and accepts nothing may be repeated any number of times. -/
theorem cycleRun_replicate (hm : react m s = .next s) (hc : s.consumed m = none) (ha : s.accepted m = none) (n : Nat) :
    cycleRun (List.replicate n m) s = some (s, [], []) := by
  induction n with
  | zero => rfl
  | succ n ih => simp [List.replicate_succ, cycleRun_cons hm ih, hc, ha]

/-- Settles O18: the edge selects IDLE, which keeps a state of legal phase, so any number of such edges does. -/
theorem idleEdgeKeepsState : Obligations.IdleEdgeKeepsState := by
  intro s e hr hx ho
  refine ⟨react_of_nextInstr (nextInstr_idle hr hx ho), fun hp => ?_,
    fun hp => execIdle_of_illegal (phaseLegal_eq_false hp)⟩
  have hl : phaseLegal s.phase = true := phaseLegal_iff_toNat_le.mpr hp
  exact ⟨execIdle_of_legal hl,
    cycleRun_replicate (react_idle hr hl hx ho) (consumed_of_no_transfer hx) (accepted_of_no_accept ho)⟩

/-! ### Byte operations do not see the driven read address -/

theorem whenSelected_driveReadAddress {c : Bool} (a : Byte) (h : whenSelected c t = .next u) :
    whenSelected c (t.driveReadAddress a) = .next (u.driveReadAddress a) := by
  obtain ⟨hc, rfl⟩ := whenSelected_next.mp h
  exact whenSelected_true hc

theorem exec_driveReadAddress {W : BitVec 11} (a : Byte) (hW : encode i = .byteOp W) (h : exec i s = .next t) :
    exec i (s.driveReadAddress a) = .next (t.driveReadAddress a) := by
  cases i with
  | reset _ _ | accept | idle | payloadRead _ => cases hW
  | _ => exact (whenSelected_driveReadAddress a h :)

theorem encode_of_decode_code (h : decode (.byteOp (byteWord p.code b)) g = .ok i) :
    encode i = .byteOp (byteWord p.code b) := by
  obtain ⟨j, hw, hg, hj⟩ := exists_instr_of_word p b g
  have hd : decode (.byteOp (byteWord p.code b)) g = .ok j := hj ▸ decode_encode hw hg
  rw [Except.ok.inj (h.symm.trans hd), hj]

theorem feed_driveReadAddress (a : Byte) (h : feed b s = some (t, r)) :
    feed b (s.driveReadAddress a) = some (t.driveReadAddress a, r) := by
  obtain ⟨p, hp⟩ := exists_code_of_legal (ready_of_feed h).2
  obtain ⟨hv, i, hd, he, hr⟩ := feed_eq_some_iff.mp h
  have hW : encode i = .byteOp (s.opWord b) := by
    rw [State.opWord, hp] at hd ⊢
    exact encode_of_decode_code hd
  exact feed_eq_some_iff.mpr ⟨hv, i, hd, exec_driveReadAddress a hW he, hr⟩

/-! ### The two levels agree (spec/41_interface.md section 7) -/

/-- A piece of a cycle-level run from `s` to `t` that consumes `bs` and accepts `accepted` is matched by the
transaction-level run of `bs`: with pending results accepted at both ends it goes between the same states, whatever
address the consumer drives, and its results are those accepted, from the one pending in `s` to the one pending in `t`. -/
def LevelsAgree (s t : State) (bs : List Byte) (accepted : List Result) : Prop :=
  ∃ results : List Result, s.result.toList ++ results = accepted ++ t.result.toList ∧
    ∀ a : Byte, feedAll bs (s.clearResult.driveReadAddress a) = some (t.clearResult.driveReadAddress a, results)

theorem LevelsAgree.refl (s : State) : LevelsAgree s s [] [] := ⟨[], by simp, fun _ => rfl⟩

theorem LevelsAgree.trans (h : LevelsAgree s t bs rs) (h' : LevelsAgree t u bs' rs') :
    LevelsAgree s u (bs ++ bs') (rs ++ rs') := by
  obtain ⟨xs, hxs, hf⟩ := h
  obtain ⟨ys, hys, hf'⟩ := h'
  refine ⟨xs ++ ys, ?_, fun a => feedAll_then (hf a) (hf' a)⟩
  rw [← List.append_assoc, hxs, List.append_assoc, hys, List.append_assoc]

/-- A read changes the driven address only. -/
theorem levelsAgree_read (s : State) (a : Byte) : LevelsAgree s (s.driveReadAddress a) [] [] := LevelsAgree.refl s

/-- A byte transfer is one byte fed; its result is pending afterwards. -/
theorem levelsAgree_feed (h : feed b s = some (t, r)) : LevelsAgree s t [b] [] := by
  have hv : s.resValid = false := (ready_of_feed h).1
  refine ⟨r.toList, by rw [result_of_none hv, result_of_feed h]; rfl, fun a => ?_⟩
  have hclear : (t.driveReadAddress a).clearResult = t.clearResult.driveReadAddress a := rfl
  rw [clearResult_of_none hv, feedAll_cons (feed_driveReadAddress a h), hclear]
  simp [feedAll_nil]

/-- An ACCEPT feeds nothing: the transaction level has accepted the result already. -/
theorem levelsAgree_accept (s : State) : LevelsAgree s s.clearResult [] s.result.toList :=
  ⟨[], by rw [result_of_none (clearResult_resValid s)]; rfl, fun _ => rfl⟩

/-- Each move without a reset completes and agrees with the transaction level. -/
theorem exists_react_levelsAgree (hl : phaseLegal s.phase = true) (hm : m.isReset = false) :
    ∃ t, react m s = .next t ∧ LevelsAgree s t (s.consumed m).toList (s.accepted m).toList := by
  cases m with
  | read a => exact ⟨_, react_read a, levelsAgree_read s a⟩
  | edge e =>
    have hr : e.rst = false := hm
    cases hx : s.xferIn e with
    | true =>
      obtain ⟨t, r, hf⟩ := exists_feed_of_transfer hx
      have ho : s.xferOut e = false := xferOut_of_no_result (ready_of_feed hf).1
      rw [consumed_of_transfer hx, accepted_of_no_accept ho]
      exact ⟨t, react_of_feed hx hf, levelsAgree_feed hf⟩
    | false =>
      rw [consumed_of_no_transfer hx]
      cases ho : s.xferOut e with
      | true =>
        rw [accepted_of_accept hr hl ho]
        exact ⟨_, react_accept hr hl ho, levelsAgree_accept s⟩
      | false =>
        rw [accepted_of_no_accept ho]
        exact ⟨s, react_idle hr hl hx ho, LevelsAgree.refl s⟩

theorem effect_phase_legal (hl : phaseLegal s.phase = true) (i : Instr) : phaseLegal (s.effect i).phase = true := by
  cases i with
  | wsDiscard _ | rpMore _ | accept | idle | payloadRead _ => exact hl
  | _ => rfl

theorem react_phase_legal (hl : phaseLegal s.phase = true) (h : react m s = .next t) : phaseLegal t.phase = true := by
  obtain ⟨i, he⟩ := exists_exec_of_react h
  rw [exec_next_eq_effect hl he]
  exact effect_phase_legal hl i

theorem exists_cycleRun_levelsAgree (hl : phaseLegal s.phase = true) (hms : ∀ m ∈ ms, m.isReset = false) :
    ∃ t bs rs, cycleRun ms s = some (t, bs, rs) ∧ LevelsAgree s t bs rs := by
  induction ms generalizing s with
  | nil => exact ⟨s, [], [], rfl, LevelsAgree.refl s⟩
  | cons m ms ih =>
    obtain ⟨hm, hms⟩ := List.forall_mem_cons.mp hms
    obtain ⟨t, hreact, hstep⟩ := exists_react_levelsAgree hl hm
    obtain ⟨u, bs, rs, hrun, hrest⟩ := ih (react_phase_legal hl hreact) hms
    exact ⟨u, _, _, cycleRun_cons hreact hrun, hstep.trans hrest⟩

/-- Settles O48: the moves agree with the transaction level one by one, so the run does, at the address driven first. -/
theorem cycleRunMatchesTransactionRun : Obligations.CycleRunMatchesTransactionRun := by
  intro ms s hp hv hms
  obtain ⟨t, bs, accepted, hrun, results, hres, hfeed⟩ :=
    exists_cycleRun_levelsAgree (phaseLegal_iff_toNat_le.mpr hp) hms
  rw [result_of_none hv] at hres
  rw [clearResult_of_none hv] at hfeed
  exact ⟨t, _, bs, accepted, results, hrun, hfeed s.rdAddr, hres, rfl⟩

end Sys2Proof.Machine
end

section
/-! PROOFS. The exceptions family: the two FramingErrors (O38). -/

namespace Sys2Proof.Machine

/-- Settles O38: a zero length takes RL.ZERO, which sets no flag; a mismatch takes RK.MISMATCH, and the ACCEPT that
follows it, in the legal phase WaitStart, clears `res_valid` only. -/
theorem framingErrorsReturnToWaitStart : Obligations.FramingErrorsReturnToWaitStart := by
  refine ⟨fun s hp hv => ?_, fun b s hp hv hb => ?_⟩
  · have hzero := feed_readLength_zero (ready_of_phase (p := .readLength) hp hv)
    exact ⟨_, hzero, rfl, resValid_of_feed_none hzero, (result_of_feed hzero).symm⟩
  · have hmismatch := feed_readChecksum_mismatch (ready_of_phase (p := .readChecksum) hp hv) hb
    exact ⟨_, _, hmismatch, rfl, rfl, rfl, rfl, result_of_chkErr rfl rfl,
      execAccept_of_legal (phaseLegal_code .waitStart), result_of_none (clearResult_resValid _), rfl⟩

end Sys2Proof.Machine
end

section
/-! PROOFS. The reset family: RESET at an edge (O16), and a program that goes on after a RESET (O50). -/

namespace Sys2Proof.Machine

variable {s t u : State} {b : Byte} {e : Edge} {es es' : List TxEvent} {rs rs' : List Result}

/-! ### The edge with `rst = 1` -/

theorem inReady_of_rst (hr : e.rst = true) : s.inReady e.rst = false := by simp [State.inReady, hr]

/-- While `rst = 1` no byte is consumed, whatever is offered (spec/41_interface.md R112). -/
theorem consumed_of_rst (hr : e.rst = true) : s.consumed (.edge e) = none :=
  consumed_of_no_transfer (Bool.and_eq_false_iff.mpr (.inr (inReady_of_rst hr)))

/-- RESET goes before ACCEPT: a pending result is dropped (spec/60_exceptions.md R135). -/
theorem accepted_of_rst (hr : e.rst = true) : s.accepted (.edge e) = none := by simp [State.accepted, hr]

/-- A reset held for several cycles has the effect of one. -/
theorem resetRegisters_idem : s.resetRegisters.resetRegisters = s.resetRegisters := rfl

/-- Settles O16: `rst` alone selects RESET, closes both ports, and its register values are ready for a byte. -/
theorem resetWritesResetValues : Obligations.ResetWritesResetValues := by
  intro s e i o hr
  have hrepeat : react (.edge e) s.resetRegisters = .next s.resetRegisters := by
    rw [react_reset hr, resetRegisters_idem]
  have hready : s.resetRegisters.inReady false = true :=
    (inReady_iff _).mpr ⟨rfl, resetRegisters_resValid s, phaseLegal_code .waitStart⟩
  exact ⟨s.resetRegisters, execReset_eq i o, react_reset hr, rfl, rfl, rfl, rfl, rfl, rfl, rfl, rfl, rfl, rfl, rfl,
    result_of_none (resetRegisters_resValid s), inReady_of_rst hr, consumed_of_rst hr, accepted_of_rst hr,
    hrepeat, hready⟩

/-! ### Programs with resets -/

theorem runProgram_reset : runProgram (.reset :: es) s = runProgram es s.resetRegisters := rfl

/-- A program that starts with a byte feeds it, and runs the rest once the byte's result is accepted. -/
theorem runProgram_byte_eq_some_iff : runProgram (.byte b :: es) s = some (u, rs) ↔
    ∃ t r rs', feed b s = some (t, r) ∧ runProgram es t.clearResult = some (u, rs') ∧ r.toList ++ rs' = rs := by
  cases hf : feed b s with
  | none => simp [runProgram, hf]
  | some x =>
    obtain ⟨t, r⟩ := x
    cases hrun : runProgram es t.clearResult with
    | none => simp [runProgram, hf, hrun]
    | some y => simp [runProgram, hf, hrun, Prod.ext_iff, and_comm]

/-- Programs run one after the other, and their results follow each other. -/
theorem runProgram_then (h : runProgram es s = some (t, rs)) (h' : runProgram es' t = some (u, rs')) :
    runProgram (es ++ es') s = some (u, rs ++ rs') := by
  induction es generalizing s rs with
  | nil =>
    obtain ⟨rfl, rfl⟩ : s = t ∧ [] = rs := by simpa [runProgram] using h
    exact h'
  | cons ev es ih =>
    cases ev with
    | reset => exact ih h
    | byte b =>
      obtain ⟨v, r, tail, hf, hrun, rfl⟩ := runProgram_byte_eq_some_iff.mp h
      exact runProgram_byte_eq_some_iff.mpr ⟨v, r, tail ++ rs', hf, ih hrun, (List.append_assoc ..).symm⟩

/-- Settles O50: the RESET is the second program's first event, and it carries the first run's buffer over. -/
theorem resetStartsNewRun : Obligations.ResetStartsNewRun := by
  intro es es' s t u rs rs' h h'
  have hreset : runProgram (.reset :: es') t = some (u, rs') := runProgram_reset.trans h'
  exact runProgram_then h hreset

end Sys2Proof.Machine
end

section
/-! PROOFS. The encoding family, decoder and encoder as inverses: the round trips (O2, O3), words written out and
words that name no operation (O1, O5), and where a byte operation stops (O21). -/

namespace Sys2Proof.Machine

variable {s t : State} {b : Byte} {c : BitVec 3} {g : Guards} {i : Instr} {p : Phase} {w : OpWord} {W : BitVec 11}

/-! ### The round trips -/

/-- Settles O2: instruction by instruction, the row's guards send the decoder to the instruction encoded. -/
theorem decodeOfEncode : Obligations.DecodeOfEncode := fun _ _ => decode_encode

theorem decode_byteWord_of_illegal (hl : phaseLegal c = false) :
    decode (.byteOp (byteWord c b)) g = .error .illegalPhase := by
  simp [decode_byteWord, ne_code_of_illegal hl]

/-- A byte word that decodes carries a phase, and that phase's operation for the byte is the one decoded. -/
theorem wf_guard_encode_of_decode_byteWord (h : decode (.byteOp (byteWord c b)) g = .ok i) :
    i.wf = true ∧ i.guardHolds g = true ∧ encode i = .byteOp (byteWord c b) := by
  cases hl : phaseLegal c with
  | false => simp [decode_byteWord_of_illegal hl] at h
  | true =>
    obtain ⟨p, rfl⟩ := exists_code_of_legal hl
    obtain ⟨j, hw, hg, hj⟩ := exists_instr_of_word p b g
    have hd : decode (.byteOp (byteWord p.code b)) g = .ok j := hj ▸ decode_encode hw hg
    obtain rfl : i = j := Except.ok.inj (h.symm.trans hd)
    exact ⟨hw, hg, hj⟩

/-- A port vector that decodes is one of RESET's four, ACCEPT's or IDLE's (spec/30_encoding.md R66). -/
theorem wf_guard_encode_of_decode_portWord {r x y : Bool} (h : decode (.port (portWord r x y)) g = .ok i) :
    i.wf = true ∧ i.guardHolds g = true ∧ encode i = .port (portWord r x y) := by
  rw [decode_portWord] at h
  cases r with
  | true => cases h; exact ⟨rfl, rfl, rfl⟩
  | false =>
    cases x with
    | true => cases h
    | false => cases y <;> cases h <;> exact ⟨rfl, rfl, rfl⟩

/-- The decoder's answer to a word is the well-formed instruction whose guard holds and whose encoding is that word. -/
theorem decode_eq_ok_iff : decode w g = .ok i ↔ i.wf = true ∧ i.guardHolds g = true ∧ encode i = w := by
  constructor
  · intro h
    cases w with
    | byteOp W =>
      obtain ⟨c, b, rfl⟩ := exists_byteWord W
      exact wf_guard_encode_of_decode_byteWord h
    | port P =>
      obtain ⟨r, x, y, rfl⟩ := exists_portWord P
      exact wf_guard_encode_of_decode_portWord h
    | readAddr a => cases h; exact ⟨rfl, rfl, rfl⟩
  · rintro ⟨hw, hg, rfl⟩
    exact decode_encode hw hg

/-- Settles O3: format by format, the word's own instruction is the one the decoder gives. -/
theorem encodeOfDecode : Obligations.EncodeOfDecode := fun _ _ _ => decode_eq_ok_iff.mp

/-! ### Single words -/

/-- Settles O1: each word is, bit by bit, the encoding of its instruction, and no guard operand is read. -/
theorem writtenWordsDecode : Obligations.WrittenWordsDecode := fun _ =>
  ⟨decode_encode (i := .wsDiscard 0xFF#8) rfl rfl, decode_encode (i := .wsStart) rfl rfl,
    decode_encode (i := .rlZero) rfl rfl, decode_encode (i := .rlLen 0xAA#8) rfl rfl,
    decode_encode (i := .reset false false) rfl rfl, decode_encode (i := .accept) rfl rfl,
    decode_encode (i := .idle) rfl rfl, decode_encode (i := .payloadRead 0xFD#8) rfl rfl⟩

/-- Settles O5: no row has an illegal phase field, and the two port vectors have `xfer_in` without `rst`. -/
theorem illegalWordsAreRejected : Obligations.IllegalWordsAreRejected := fun g =>
  ⟨fun _ _ hc => decode_byteWord_of_illegal (phaseLegal_eq_false hc), decode_portWord false true false g,
    decode_portWord false true true g⟩

/-! ### Where a byte operation stops -/

/-- A byte operation completes or stops as `notSelected`; there is no third outcome. -/
theorem exec_byteOp_eq_whenSelected (hW : encode i = .byteOp W) : ∃ c t, exec i s = whenSelected c t := by
  cases i with
  | reset _ _ | accept | idle | payloadRead _ => cases hW
  | _ => exact ⟨_, _, rfl⟩

theorem exec_refused_iff (hW : encode i = .byteOp W) :
    exec i s = .refused .notSelected ↔ ¬ ∃ t, exec i s = .next t := by
  obtain ⟨c, t, he⟩ := exec_byteOp_eq_whenSelected (s := s) hW
  rw [he]
  cases c <;> simp [whenSelected]

/-- A byte operation completes where the block is free in its phase and its row's guards hold (spec/30_encoding.md R65,
R67). -/
theorem exists_exec_next_iff (hW : encode i = .byteOp (byteWord p.code b)) :
    (∃ t, exec i s = .next t) ↔ s.readyIn p = true ∧ i.wf = true ∧ i.guardHolds s.guards = true := by
  have phase {q : Phase} {d : Byte} (h : OpWord.byteOp (byteWord q.code d) = .byteOp (byteWord p.code b)) : q = p :=
    code_injective (byteWord_injective (OpWord.byteOp.inj h)).1
  cases i with
  | reset _ _ | accept | idle | payloadRead _ => cases hW
  | _ =>
    obtain rfl := phase hW
    simp [execWsDiscard_next, execWsStart_next, execRlZero_next, execRlLen_next, execRcLast_next, execRcMore_next,
      execRpMore_next, execRpLast_next, execRkMatch_next, execRkMismatch_next, Instr.wf, Instr.guardHolds, guards_eq,
      lastPayloadByte]

/-- The word of a byte operation carries a phase. -/
theorem exists_code_of_encode (hW : encode i = .byteOp W) : ∃ (p : Phase) (b : Byte), W = byteWord p.code b := by
  cases i with
  | reset _ _ | accept | idle | payloadRead _ => cases hW
  | _ => exact ⟨_, _, (OpWord.byteOp.inj hW).symm⟩

/-- A byte operation completes exactly where the block, offered its byte, selects it (spec/30_encoding.md R65). -/
theorem exists_exec_next_iff_selected (hW : encode i = .byteOp W) : (∃ t, exec i s = .next t) ↔
    s.resValid = false ∧ decode (.byteOp (s.opWord (byteField W))) s.guards = .ok i := by
  obtain ⟨p, b, rfl⟩ := exists_code_of_encode hW
  have hphase : encode i = .byteOp (s.opWord b) ↔ s.phase = p.code := by
    rw [hW, OpWord.byteOp.injEq, State.opWord]
    exact ⟨fun h => (byteWord_injective h).1.symm, fun h => by rw [h]⟩
  rw [exists_exec_next_iff hW, byteField_byteWord, decode_eq_ok_iff, hphase, readyIn_iff]
  tauto

/-- Settles O21: a byte operation that does not complete stops, and it completes exactly where it is selected. -/
theorem byteOperationStopsWhereNotSelected : Obligations.ByteOperationStopsWhereNotSelected := fun _ _ _ hW =>
  (exec_refused_iff hW).trans (not_congr (exists_exec_next_iff_selected hW))

end Sys2Proof.Machine
end

section
/-! PROOFS. The step family: an edge's operation and its recovery of an illegal phase code (O20, O22, O25), the step (O23,
O24, O28), instances (O54), and the state after reset (O31). -/

namespace Sys2Proof.Machine

variable {s t : State} {b : Byte} {e : Edge} {m : Stimulus} {i : Instr} {p : Phase} {ms : List Stimulus}

/-! ### Illegal phase codes -/

theorem inReady_of_illegal (hl : phaseLegal s.phase = false) (r : Bool) : s.inReady r = false := by
  simp [State.inReady, hl]

theorem xferIn_of_illegal (hl : phaseLegal s.phase = false) : s.xferIn e = false :=
  Bool.and_eq_false_iff.mpr (.inr (inReady_of_illegal hl e.rst))

theorem accepted_of_illegal (hl : phaseLegal s.phase = false) : s.accepted (.edge e) = none := by
  simp [State.accepted, hl]

/-- Settles O20: every effect leaves a legal phase legal, and an edge under an illegal code is RESET or the recovery. -/
theorem illegalPhaseRecovers : Obligations.IllegalPhaseRecovers := by
  refine ⟨⟨rfl, rfl, rfl, rfl, rfl⟩, fun i s t hp h => ?_, fun s e hp => ?_⟩
  · have hl : phaseLegal s.phase = true := phaseLegal_iff_toNat_le.mpr hp
    rw [exec_next_eq_effect hl h]
    exact phaseLegal_iff_toNat_le.mp (effect_phase_legal hl i)
  · have hl : phaseLegal s.phase = false := phaseLegal_eq_false hp
    refine ⟨inReady_of_illegal hl e.rst, consumed_of_no_transfer (xferIn_of_illegal hl), ?_⟩
    cases hr : e.rst with
    | true => exact ⟨s.resetRegisters, react_reset hr, rfl, fun h => nomatch h⟩
    | false => exact ⟨s.goto .waitStart, react_illegal hr hl, rfl, fun _ => rfl⟩

/-- Settles O22: the recovery comes before ACCEPT, and clearing a flag that is 0 changes nothing. -/
theorem acceptElsewhereIsHarmless : Obligations.AcceptElsewhereIsHarmless := by
  refine fun s => ⟨fun hp => execAccept_of_illegal (phaseLegal_eq_false hp), fun hp hv => ?_⟩
  rw [execAccept_of_legal (phaseLegal_iff_toNat_le.mpr hp), clearResult_of_none hv]

/-! ### Every move completes -/

/-- At a byte transfer the decoder gives an operation, which completes (spec/40_frame_decode.md R81). -/
theorem exists_decode_of_transfer (hx : s.xferIn e = true) :
    ∃ i t, decode (.byteOp (s.opWord e.inData)) s.guards = .ok i ∧ exec i s = .next t := by
  obtain ⟨t, r, hf⟩ := exists_feed_of_transfer hx
  obtain ⟨-, i, hd, he, -⟩ := feed_eq_some_iff.mp hf
  exact ⟨i, t, hd, he⟩

theorem exists_react (m : Stimulus) (s : State) : ∃ t, react m s = .next t := by
  cases m with
  | read a => exact ⟨_, react_read a⟩
  | edge e =>
    cases hr : e.rst with
    | true => exact ⟨_, react_reset hr⟩
    | false =>
      cases hl : phaseLegal s.phase with
      | false => exact ⟨_, react_illegal hr hl⟩
      | true =>
        obtain ⟨t, ht, -⟩ := exists_react_levelsAgree (m := .edge e) hl hr
        exact ⟨t, ht⟩

/-- Settles O24: the step is the reaction to the next move. -/
theorem stepAlwaysAnswersNext : Obligations.StepAlwaysAnswersNext := fun s => exists_react s.nextStimulus s.popStimulus

/-! ### The order at an edge -/

/-- A byte transfer and an ACCEPT never meet: one wants `res_valid = 0`, the other 1 (spec/41_interface.md R117). -/
theorem xferOut_of_transfer (hx : s.xferIn e = true) : s.xferOut e = false := by
  obtain ⟨-, -, hv, -⟩ := xferIn_iff.mp hx
  exact xferOut_of_no_result hv

theorem xferIn_of_accept (ho : s.xferOut e = true) : s.xferIn e = false := by
  cases hx : s.xferIn e with
  | true => rw [xferOut_of_transfer hx] at ho; cases ho
  | false => rfl

theorem nextInstr_accept (hr : e.rst = false) (hl : phaseLegal s.phase = true) (ho : s.xferOut e = true) :
    nextInstr (.edge e) s = .ok .accept := by
  rw [nextInstr_port hr hl (xferIn_of_accept ho), if_pos ho]

/-- Settles O25: R135's chain, one selected word for each link. -/
theorem edgePriority : Obligations.EdgePriority := by
  intro s e
  have hxfer : s.xferIn e = true ↔ e.inValid = true ∧ s.inReady e.rst = true := Bool.and_eq_true_iff
  simp only [← xferOut_iff, ← hxfer, Bool.not_eq_true]
  refine ⟨fun hr => ?_, fun hr hp => ?_, fun hr hp hin hready => ?_, fun hr hp hx hv hready => ?_,
    fun hr hp hx ho => ?_, fun ⟨hx, ho⟩ => by simp [xferOut_of_transfer hx] at ho⟩
  · exact ⟨_, _, react_of_nextInstr (nextInstr_reset hr), consumed_of_rst hr, accepted_of_rst hr⟩
  · have hl : phaseLegal s.phase = false := phaseLegal_eq_false hp
    exact ⟨react_illegal hr hl, consumed_of_no_transfer (xferIn_of_illegal hl), accepted_of_illegal hl⟩
  · have hx : s.xferIn e = true := hxfer.mpr ⟨hin, hready⟩
    obtain ⟨i, t, hd, he⟩ := exists_decode_of_transfer hx
    exact ⟨i, hd, fun j hj => Except.ok.inj (hj.symm.trans hd), ⟨t, he⟩,
      react_of_nextInstr ((nextInstr_byte hx).trans hd), consumed_of_transfer hx,
      accepted_of_no_accept (xferOut_of_transfer hx)⟩
  · have hl : phaseLegal s.phase = true := phaseLegal_iff_toNat_le.mpr hp
    have ho : s.xferOut e = true := xferOut_iff.mpr ⟨hv, hready⟩
    exact ⟨react_of_nextInstr (nextInstr_accept hr hl ho), consumed_of_no_transfer hx, accepted_of_accept hr hl ho⟩
  · exact ⟨react_of_nextInstr (nextInstr_idle hr hx ho), consumed_of_no_transfer hx, accepted_of_no_accept ho⟩

/-! ### The step's instruction -/

/-- The selection does not read the coming moves. -/
theorem nextInstr_ignores_pending (m : Stimulus) (s : State) (ms : List Stimulus) :
    nextInstr m { s with pending := ms } = nextInstr m s := by cases m <;> rfl

theorem step_of_nextInstr (hs : s.pending = m :: ms) (h : nextInstr m s = .ok i) :
    step s = exec i { s with pending := ms } :=
  (step_cons hs).trans (react_of_nextInstr ((nextInstr_ignores_pending m s ms).trans h))

/-- Settles O23: the clauses are the selections of R135, and an edge at which nothing is asked selects IDLE. -/
theorem stepRunsSelectedInstruction : Obligations.StepRunsSelectedInstruction := by
  intro s ms
  refine ⟨fun m i => step_of_nextInstr, fun e i hs =>
    ⟨fun hr hin hv hp hd => ?_, fun hr => ?_, fun hr hp hx hd => ?_, fun hr hp => ?_⟩, fun a hs => step_of_nextInstr hs (nextInstr_read a), fun hs => ?_⟩
  · have hx : s.xferIn e = true := xferIn_iff.mpr ⟨hin, hr, hv, phaseLegal_iff_toNat_le.mpr hp⟩
    exact step_of_nextInstr hs ((nextInstr_byte hx).trans hd)
  · exact step_of_nextInstr hs (nextInstr_reset hr)
  · have hport := nextInstr_port hr (phaseLegal_iff_toNat_le.mpr hp) hx
    exact step_of_nextInstr hs (hport.trans ((decode_portWord false false _ _).symm.trans hd))
  · exact step_of_nextInstr hs (nextInstr_illegal hr (phaseLegal_eq_false hp))
  · have hout : s.xferOut Edge.quiet = false := Bool.and_false _
    exact (step_nil hs).trans (react_of_nextInstr (nextInstr_idle rfl rfl hout))

/-! ### Table words -/

/-- The decoder reads a table word as an instruction whose guard holds on the guard operands of table words (log 7). -/
theorem wf_guard_of_decodeTableWord {nbits w : Nat} (h : decodeTableWord nbits w = some i) :
    i.wf = true ∧ i.guardHolds tableGuards = true := by
  have wf_guard {w : OpWord} (hd : decode w tableGuards = .ok i) : i.wf = true ∧ i.guardHolds tableGuards = true := by
    obtain ⟨hw, hg, -⟩ := decode_eq_ok_iff.mp hd
    exact ⟨hw, hg⟩
  unfold decodeTableWord at h
  split_ifs at h
  · cases hd : decodeByteOp (BitVec.ofNat 11 w) tableGuards with
    | error _ => simp [hd, Except.toOption] at h
    | ok j =>
      obtain rfl : j = i := by simpa [hd, Except.toOption] using h
      exact wf_guard (w := .byteOp _) hd
  · split at h
    · rename_i j hd
      obtain rfl : j = i := Option.some.inj h
      exact wf_guard (w := .port _) hd
    · cases h; exact ⟨rfl, rfl⟩
  · cases h; exact ⟨rfl, rfl⟩

/-- The block made free for a byte in a phase selects that phase's operation, under its guard operands. -/
theorem nextInstr_arrangeByte (hW : encode i = .byteOp (byteWord p.code b)) (hw : i.wf = true)
    (hg : i.guardHolds s.guards = true) : nextInstr (.edge (Edge.offer b)) (s.arrangeByte p b) = .ok i := by
  have hx : (s.arrangeByte p b).xferIn (Edge.offer b) = true := xferIn_iff.mpr ⟨rfl, rfl, rfl, phaseLegal_code p⟩
  exact (nextInstr_byte hx).trans (hW ▸ decode_encode hw hg)

theorem phaseLegal_recoverPhase (s : State) : phaseLegal s.recoverPhase.phase = true := by
  cases hl : phaseLegal s.phase with
  | true => rwa [recoverPhase_of_legal hl]
  | false => rw [recoverPhase_of_illegal hl]; rfl

theorem recoverPhase_pending (s : State) : s.recoverPhase.pending = s.pending := by
  unfold State.recoverPhase
  split <;> rfl

/-- The move that `arrange` puts first runs the instruction arranged for. -/
theorem step_arrange (s : State) (hw : i.wf = true) (hg : i.guardHolds tableGuards = true) :
    step (s.arrange i) = exec i { s.arrange i with pending := s.pending } := by
  cases i with
  | rcLast b | rpLast b => cases hg
  | wsDiscard b | wsStart | rlZero | rlLen b | rcMore b | rpMore b | rkMatch b | rkMismatch b =>
    exact step_of_nextInstr rfl (nextInstr_arrangeByte rfl hw hg)
  | reset x y => exact (step_cons rfl).trans (react_reset rfl)
  | accept =>
    have hs : (s.arrange .accept).pending = .edge ⟨false, false, 0x00#8, true⟩ :: s.pending :=
      congrArg (_ :: ·) (recoverPhase_pending s)
    exact step_of_nextInstr hs (nextInstr_accept rfl (phaseLegal_recoverPhase s) rfl)
  | idle => exact step_of_nextInstr rfl (nextInstr_idle rfl rfl (Bool.and_false _))
  | payloadRead a => exact step_of_nextInstr rfl (nextInstr_read a)

/-- Settles O28: the step after the word is placed runs the instruction read from it. -/
theorem tableWordRunsNext : Obligations.TableWordRunsNext := by
  intro s nbits w i h
  have hplace : s.withFetchWord nbits w = s.arrange i := by simp [State.withFetchWord, State.placeTableWord, h]
  obtain ⟨hw, hg⟩ := wf_guard_of_decodeTableWord h
  obtain ⟨t, ht⟩ := stepAlwaysAnswersNext (s.arrange i)
  rw [hplace]
  exact ⟨t, ht, (step_arrange s hw hg).symm.trans ht⟩

/-! ### Instances and reset -/

theorem stepInstance_of_step {n : Nat} {σ : System n} {k : Fin n} (h : step σ[k] = .next t) :
    stepInstance k σ = .next (σ.set k t) := by
  simp only [stepInstance, h]

/-- Settles O54: a step reads and sets its own place in the system, so two steps in different places commute. -/
theorem instancesAreIndependent : Obligations.InstancesAreIndependent := by
  intro n σ k
  obtain ⟨t, hk⟩ := stepAlwaysAnswersNext σ[k]
  refine ⟨σ.set k t, stepInstance_of_step hk, by simpa using hk, fun j hj => ?_, fun j υ hj hυ => ?_⟩
  · exact Vector.getElem_set_ne _ _ (fun h => hj (Fin.ext h.symm))
  · obtain ⟨u, hu⟩ := stepAlwaysAnswersNext σ[j]
    obtain rfl : σ.set j u = υ := Host.Outcome.next.inj ((stepInstance_of_step hu).symm.trans hυ)
    have hne : (k : Nat) ≠ j := fun h => hj (Fin.ext h.symm)
    have hju : step (σ.set k t)[j] = .next u := by simpa [Vector.getElem_set_ne _ _ hne] using hu
    have hkt : step (σ.set j u)[k] = .next t := by simpa [Vector.getElem_set_ne _ _ hne.symm] using hk
    exact ⟨_, stepInstance_of_step hju, by rw [stepInstance_of_step hkt, Vector.set_comm _ _ hne]⟩

/-- Settles O31: after reset the phase is WaitStart and no result is pending, so only the buffer's form is asked. -/
theorem invHoldsAfterReset : Obligations.InvHoldsAfterReset :=
  ⟨inv_resetWith Memory.wf_nil _ _, fun _ a ms hm => inv_resetWith hm a ms⟩

end Sys2Proof.Machine
end

section
/-! PROOFS. The run family: a pending result under moves that neither reset nor accept (O36), the edges a run needs (O49),
and results as a function of the program (O47). -/

namespace Sys2Proof.Machine

variable {s t : State} {e : Edge} {ms : List Stimulus} {bs : List Byte} {rs : List Result}

/-! ### A pending result -/

/-- With a result pending, an edge without `rst` and `res_ready` is an idle edge, whatever byte is offered. -/
theorem no_transfer_of_pending (hv : s.resValid = true) (hready : e.resReady = false) :
    s.xferIn e = false ∧ s.xferOut e = false := by
  simp [State.xferIn, State.inReady, State.xferOut, hv, hready]

/-- Settles O36: move by move, an edge is idle and a read changes the driven address only. -/
theorem pendingResultStaysUntilAccepted : Obligations.PendingResultStaysUntilAccepted := by
  intro s ms hv hp hms
  induction ms generalizing s with
  | nil => exact ⟨s.rdAddr, rfl⟩
  | cons m ms ih =>
    have hrest {e : Edge} (he : .edge e ∈ ms) : e.rst = false ∧ e.resReady = false := hms e (.tail m he)
    cases m with
    | read a =>
      obtain ⟨a', hrun⟩ := ih (s.driveReadAddress a) hv hp fun _ => hrest
      exact ⟨a', cycleRun_cons (react_read a) hrun⟩
    | edge e =>
      obtain ⟨hr, hready⟩ := hms e (.head ms)
      obtain ⟨hx, ho⟩ := no_transfer_of_pending hv hready
      obtain ⟨a', hrun⟩ := ih s hv hp fun _ => hrest
      refine ⟨a', (cycleRun_cons (react_idle hr (phaseLegal_iff_toNat_le.mpr hp) hx ho) hrun).trans ?_⟩
      rw [consumed_of_no_transfer hx, accepted_of_no_accept ho]
      rfl

/-! ### The edges of a run -/

/-- An edge consumes a byte or delivers a result, not both, and a read does neither (spec/41_interface.md R117, R122). -/
theorem length_consumed_add_accepted_le (s : State) (m : Stimulus) :
    (s.consumed m).toList.length + (s.accepted m).toList.length ≤ if m.isEdge then 1 else 0 := by
  cases m with
  | read a => exact le_rfl
  | edge e =>
    cases hx : s.xferIn e with
    | true =>
      rw [consumed_of_transfer hx, accepted_of_no_accept (xferOut_of_transfer hx)]
      exact le_rfl
    | false =>
      rw [consumed_of_no_transfer hx]
      cases s.accepted (.edge e) <;> simp [Stimulus.isEdge]

theorem cycleRun_cons_eq_some {m : Stimulus} (h : cycleRun (m :: ms) s = some (t, bs, rs)) :
    ∃ u bs' rs', cycleRun ms u = some (t, bs', rs') ∧
      bs = (s.consumed m).toList ++ bs' ∧ rs = (s.accepted m).toList ++ rs' := by
  obtain ⟨u, hu⟩ := exists_react m s
  cases hrun : cycleRun ms u with
  | none => simp [cycleRun, hu, hrun] at h
  | some x =>
    obtain ⟨t', bs', rs'⟩ := x
    obtain ⟨rfl, rfl, rfl⟩ : t' = t ∧ _ = bs ∧ _ = rs := by simpa [cycleRun, hu, hrun] using h
    exact ⟨u, bs', rs', hrun, rfl, rfl⟩

/-- Settles O49: the bound holds move by move, so it holds of the sums. -/
theorem edgesBoundBytesAndResults : Obligations.EdgesBoundBytesAndResults := by
  intro ms s t bs rs h
  induction ms generalizing s bs rs with
  | nil => cases h; exact le_rfl
  | cons m ms ih =>
    obtain ⟨u, bs', rs', hrun, rfl, rfl⟩ := cycleRun_cons_eq_some h
    have hmove := length_consumed_add_accepted_le s m
    have hrest := ih u bs' rs' hrun
    rw [List.filter_cons, List.length_append, List.length_append]
    split_ifs at hmove ⊢
    · rw [List.length_cons]
      omega
    · omega

/-! ### Results as a function of the program -/

/-- How far the decoder is in a frame, by the bytes of that frame alone: nothing here stands for the buffer. -/
inductive Progress
  | idle
  | started
  | sized (n : Byte)
  | inBody (n c : Byte) (ps : List Byte)

/-- The state is one the decoder can be in after the bytes that `x` records; the rest of its buffer is free. -/
def Progress.At : Progress → State → Prop
  | .idle, s => s.readyIn .waitStart = true
  | .started, s => s.readyIn .readLength = true
  | .sized n, s => s.readyIn .readCommand = true ∧ s.lenR = n ∧ s.chkR = n ∧ 1 ≤ n.toNat
  | .inBody n c ps, s => InFrame n c ps s

/-- What a byte leads to, and with which results, is the same from every state of equal progress. -/
theorem Progress.exists_after_byte (x : Progress) (b : Byte) : ∃ (y : Progress) (rs : List Result),
    ∀ s, x.At s → ∃ t, feedAll [b] s = some (t, rs) ∧ y.At t := by
  cases x with
  | idle =>
    by_cases hb : b = Config.startMarker
    · subst hb
      exact ⟨.started, [], fun s hs => ⟨_, feedAll_cons_none (feed_startMarker hs), ready_afterMarker hs⟩⟩
    · exact ⟨.idle, [], fun s hs => ⟨s, feedAll_cons_none (feed_waitStart_discard hs hb), hs⟩⟩
  | started =>
    by_cases hb : b = 0x00#8
    · subst hb
      exact ⟨.idle, [], fun s hs => ⟨_, feedAll_cons_none (feed_readLength_zero hs),
        ready_of_phase rfl (resValid_of_ready (s := s) hs)⟩⟩
    · have hpos : 1 ≤ b.toNat := by bv_omega
      refine ⟨.sized b, [], fun s hs => ?_⟩
      obtain ⟨t, hf, hr, hlen, hchk⟩ := feed_readLength_loads hs hb
      exact ⟨t, feedAll_cons_none hf, hr, hlen, hchk, hpos⟩
  | sized n =>
    refine ⟨.inBody n b [], [], fun s ⟨hr, hlen, hchk, hpos⟩ => ?_⟩
    obtain ⟨t, hf, hin⟩ := inFrame_of_command hr hlen hchk hpos b
    exact ⟨t, feedAll_cons_none hf, hin⟩
  | inBody n c ps =>
    by_cases hlast : ps.length + 1 = n.toNat
    · refine ⟨.idle, [checksumResult n c ps b], fun s hs => ?_⟩
      obtain ⟨t, hf, hw, -⟩ := hs.checksumByte hlast b
      exact ⟨t, hf, hw⟩
    · refine ⟨.inBody n c (ps ++ [b]), [], fun s hs => ?_⟩
      have hlt : ps.length + 1 < n.toNat := lt_of_le_of_ne hs.short hlast
      obtain ⟨t, hf, hin⟩ := hs.payloadByte hlt b
      exact ⟨t, feedAll_cons_none hf, hin⟩

/-- A program's results are the same from every state of equal progress. -/
theorem Progress.exists_results (x : Progress) (es : List TxEvent) : ∃ rs : List Result,
    ∀ s, x.At s → ∃ t, runProgram es s = some (t, rs) := by
  induction es generalizing x with
  | nil => exact ⟨[], fun s _ => ⟨s, rfl⟩⟩
  | cons ev es ih =>
    cases ev with
    | reset =>
      obtain ⟨rs, hrun⟩ := ih .idle
      exact ⟨rs, fun s _ => hrun s.resetRegisters rfl⟩
    | byte b =>
      obtain ⟨y, rs, hbyte⟩ := x.exists_after_byte b
      obtain ⟨rs', hrun⟩ := ih y
      refine ⟨rs ++ rs', fun s hs => ?_⟩
      obtain ⟨t, hf, ht⟩ := hbyte s hs
      obtain ⟨u, hu⟩ := hrun t ht
      exact ⟨u, runProgram_then (es := [.byte b]) ((runProgram_bytes [b]).trans hf) hu⟩

/-- Settles O47: both reset states wait for a start marker, and the results depend on that progress only. -/
theorem resultsIgnoreInitialBuffer : Obligations.ResultsIgnoreInitialBuffer := by
  intro es m m' a a' ms ms'
  obtain ⟨rs, hrun⟩ := Progress.idle.exists_results es
  obtain ⟨t, ht⟩ := hrun (State.resetWith m a ms) rfl
  obtain ⟨t', ht'⟩ := hrun (State.resetWith m' a' ms') rfl
  exact ⟨t, t', rs, ht, ht'⟩

end Sys2Proof.Machine
end
